-- ==== Sys2Proof/Word.lean ====
section
/-! DEFINITION. The words of the KB24: bytes of the wire formats, sequence numbers, bay positions. -/

namespace Sys2Proof

/-- One byte of a link frame or a message frame (R180, R181). -/
abbrev Byte := BitVec 8

/-- A sequence number, 0 to 65535, wrapping (R44). -/
abbrev Seq := BitVec 16

/-- A bay position and the link of the same number; position `p` is bay number `p + 1` (R1). -/
abbrev Pos := Fin 24

end Sys2Proof
end

