-- ==== Sys2Proof/Syntax.lean ====
section
/-! DEFINITION. The commands of the KB24: one constructor of Instr per row of the table of operations and events. -/

namespace Sys2Proof

/-- The bus zones, in the fixed order A1, B1, A2, B2 (R23). -/
inductive BusZone
  | a1 | b1 | a2 | b2
  deriving DecidableEq, Repr

/-- The switching devices of a bay whose contact pairs are decoded (R2). -/
inductive Element
  | isolatorA | isolatorB | breaker
  deriving DecidableEq, Repr

/-- The two latches of a bay (R133). -/
inductive LatchKind
  | trip | transferTrip
  deriving DecidableEq, Repr

/-- One value for each of the phases L1, L2 and L3. -/
structure PerPhase (α : Type) where
  l1 : α
  l2 : α
  l3 : α
  deriving DecidableEq, Repr

/-- A complete message frame (R181): its lead byte is 0x5B and its body length is the length of `body`, so neither is written. -/
structure MessageFrame where
  kind : Byte
  tag : Byte
  body : List Byte
  crc : BitVec 16
  deriving DecidableEq, Repr

/-- The commands. Operands of host requests are the fields of the request as numbers, as the request carries them: a named value
counts from 0 in the order its rule lists the values, yes is 1 and no is 0 (R181), so that a value outside the list can be given
and is answered as the request's rule says. -/
inductive Instr
  -- Message Port and Protection Controller requests
  | identify (clear : Nat)
  | fetchNotices (rearm : Nat)
  | setStation (frequency depth markRequired sections : Nat)
  | startProtection (extension : Nat)
  | stopProtection
  | restart
  | warmRestart
  /-- `target` 0 is DEVICE, 1..24 a bay. -/
  | queryOperation (target : Nat)
  -- Bay Table requests
  | configureBay (bay kind sectionNo bus scale polarity alloc : Nat)
  | setService (bay target : Nat)
  | override (bay element value : Nat)
  | readBay (bay : Nat)
  -- Zone Replica, Evaluator and clock requests
  | blockZone (zones : List Nat)
  | unblockZone (zones : List Nat) (check : Nat)
  | readZone
  | readClock
  -- Bay Links and Frame Pool requests
  | openLink (bay extension : Nat)
  | closeLink (bay dormant wake : Nat)
  | readLink (bay clear : Nat)
  | reallocate (bay alloc : Nat)
  -- Settings Store requests
  /-- `values` are the nineteen fields in the order of the table of R155. -/
  | stageSettings (values : List Nat)
  | switchSettings
  | switchSettingsCancel
  | readSettings (selection : Nat)
  -- Trip Unit requests
  | sendOrder (bay kind argument : Nat)
  /-- `target` 0 is ALL, 1..24 a bay. -/
  | resetTrip (target : Nat)
  /-- `selector` 0 is OLDEST, 1 the record id that follows. -/
  | readRecord (selector id : Nat)
  | releaseRecord (id : Nat)
  -- RESETn and the message port's lines
  | powerOnReset (rate1 rate0 : Bool)
  | messageFrameReceived (frame : MessageFrame)
  /-- `next` is the byte that ends the gap, none when that byte has a missing stop bit. -/
  | messageGap (next : Option Byte)
  | replySent
  -- the sequence clock
  | sampleBoundary
  /-- `elapsed` is the time since the previous mark on the reference clock in nanoseconds, `phase` the phase error. -/
  | mark (elapsed : Nat) (phase : Int)
  | missingCountRise
  | markTimeout
  -- upstream frames: the bytes after the sync word, fewer than 19 when the frame is cut short
  | frameArrival (link : Pos) (bytes : List Byte)
  | wakeBringUp (link : Pos) (bytes : List Byte)
  | linkActive (link : Pos) (bytes : List Byte)
  | recoveryActive (link : Pos) (bytes : List Byte)
  | bringUpFailed (link : Pos) (bytes : List Byte)
  | bringUpTimeout (link : Pos)
  | lockTimeout (link : Pos)
  | linkLost (link : Pos)
  -- a release, and its shares
  | release
  | replicaOpen (bay : Pos) (element : Element)
  | isolatorStuck (bay : Pos) (element : Element)
  | breakerStuck (bay : Pos)
  | dataLost (bay : Pos)
  | dataRestored (bay : Pos)
  /-- `marks` are the operate marks of the complete release that ends the span. -/
  | spanEnd (zone : BusZone) (marks : PerPhase Bool)
  /-- `normal` are the normal-test results of the complete release. -/
  | evolvingFault (zone : BusZone) (normal : PerPhase Bool)
  | returnToQuiet (zone : BusZone)
  /-- `zone` none is the check zone; `ids` are the differential currents of the complete release. -/
  | ctSupervision (zone : Option BusZone) (ids : PerPhase Nat)
  | bfCleared (bay : Pos)
  /-- `seen` are the bay's scaled currents of the release, none when it is absent or has a failed unit. -/
  | bfExpiry (bay : Pos) (seen : Option (PerPhase Int))
  | drainComplete (link : Pos)
  | settingsSwitched
  | tripUnconfirmed (bay : Pos) (latch : LatchKind)
  | orderDone (bay : Pos)
  | orderTimeout (bay : Pos)
  | startSuccess
  | startTimeout
  | resetnAsserted
  | messageFrameStart
  | stopBitMissing
  | bodyLengthExcess (length : Nat)
  deriving DecidableEq, Repr

end Sys2Proof
end

