-- ==== Sys2Proof/Decode.lean ====
section
/-! DEFINITION. Words that spell commands: the table of operations gives no row any bits, so no word spells one. -/

namespace Sys2Proof

/-- The command a word spells by the table's bits: none, for no row of spec/opcode_table.json gives bits. -/
def decodeTableWord (_nbits _w : Nat) : Option Instr := none

end Sys2Proof
end

