-- ==== Sys2Proof/Config.lean ====
section
/-! DEFINITION. What the part fixes: capacities and identification (R85, R147, R176, R179), and the one value the spec leaves unstated. -/

namespace Sys2Proof.Config

/-- The Frame Pool holds 512 slots (R85). -/
def slotCount : Nat := 512

/-- The notice queue holds at most 32 notices (R176). -/
def noticeCapacity : Nat := 32

/-- FETCH_NOTICES removes up to 8 notices (R177). -/
def fetchLimit : Nat := 8

/-- The trip record table holds at most 8 records (R148). -/
def recordCapacity : Nat := 8

/-- RECORDS_NEARLY_FULL is posted when the table comes to hold 6 records (R148). -/
def recordsNearlyFull : Nat := 6

/-- Differential and restraint currents saturate here (R102). -/
def currentLimit : Nat := 2147483647

/-- Vendor code, part code and revision (R179). -/
def vendorCode : Nat := 0x4C4D
def partCode : Nat := 0x0B24
def revision : Nat := 1

/-- The largest body of a message frame (R181). -/
def maxBody : Nat := 600

/-- The values that straps RATE1 and RATE0 hold in the reset state (DESIGN CHOICE, log entry 5). -/
def resetRate1 : Bool := false
def resetRate0 : Bool := false

/-- FREE VALUE (log entry 9): the byte number `i` of the pool fields that a REALLOCATE reply carries for a bay number `n`
outside 1..24. R91 says every reply carries the bay's fields and names no value where there is no such bay. -/
opaque unstatedReallocateByte (n i : Nat) : Byte

end Sys2Proof.Config
end

