-- ==== Sys2Proof/Machine/State.lean ====
section
/-! DEFINITION. The state of the KB24, block by block, as plain data, and its value after power-on reset. -/

namespace Sys2Proof.Machine

/-! ### Twenty-four of a kind -/

/-- One cell for each bay position or link (R1): a list of exactly 24. -/
structure Table (α : Type) where
  cells : List α
  size : cells.length = 24
  deriving DecidableEq, Repr

/-- The same value at every position. -/
def Table.replicate {α : Type} (a : α) : Table α := ⟨List.replicate 24 a, List.length_replicate⟩

/-! ### Names -/

/-- A phase (00, Conventions). -/
inductive Phase
  | l1 | l2 | l3
  deriving DecidableEq, Repr

/-- KIND of a bay (R1). -/
inductive BayKind
  | feeder | coupler | sectionBay
  deriving DecidableEq, Repr

/-- SECTION of a bay: 1 or 2 (R1). -/
inductive SectionNo
  | one | two
  deriving DecidableEq, Repr

/-- BUS of a SECTION bay (R1). -/
inductive Bus
  | a | b
  deriving DecidableEq, Repr

/-- POLARITY (R1). -/
inductive Polarity
  | normal | reversed
  deriving DecidableEq, Repr

/-- SERVICE (R13). -/
inductive Service
  | outOfService | maintenance | inService
  deriving DecidableEq, Repr

/-- Contact status of an element (R7). -/
inductive ContactStatus
  | closed | opened | travel | invalid | unread
  deriving DecidableEq, Repr

/-- A replica, OPEN or CLOSED (R8). -/
inductive Replica
  | opened | closed
  deriving DecidableEq, Repr

/-- OVERRIDE of an element (R11). -/
inductive Forcing
  | none | forceOpen | forceClosed
  deriving DecidableEq, Repr

/-! ### Bay Table (R1, R22) -/

/-- The observed and override fields of one element of a bay. -/
structure ElementRecord where
  contact : ContactStatus
  derived : Replica
  debounce : Nat
  travel : Nat
  stuck : Bool
  forcing : Forcing
  deriving DecidableEq, Repr

/-- An element after power-on reset (R22). -/
def ElementRecord.reset : ElementRecord :=
  { contact := .unread, derived := .closed, debounce := 0, travel := 0, stuck := false, forcing := .none }

/-- The three currents of a bay last consumed, in mA-ref, with the sequence of their release (R6). -/
structure LastCurrents where
  currents : PerPhase Int
  sequence : Seq
  deriving DecidableEq, Repr

/-- A bay record; NUMBER is its position in the table. -/
structure BayRecord where
  configured : Bool
  kind : BayKind
  sectionNo : SectionNo
  bus : Bus
  scale : Nat
  polarity : Polarity
  alloc : Nat
  service : Service
  isolatorA : ElementRecord
  isolatorB : ElementRecord
  breaker : ElementRecord
  last : Option LastCurrents
  missingRun : Nat
  presentRun : Nat
  lastPresent : Option Seq
  data : Bool
  testSeen : Bool
  bfiPrevious : Bool
  deriving DecidableEq, Repr

/-- A bay record after power-on reset (R22). -/
def BayRecord.reset : BayRecord :=
  { configured := false, kind := .feeder, sectionNo := .one, bus := .a, scale := 1024, polarity := .normal, alloc := 0
    service := .outOfService, isolatorA := .reset, isolatorB := .reset, breaker := .reset, last := none
    missingRun := 0, presentRun := 0, lastPresent := none, data := false, testSeen := false, bfiPrevious := false }

/-! ### Zone Replica (R23, R42) -/

/-- One bus-zone record. -/
structure BusZoneRecord where
  zone : BusZone
  host : Bool
  cts : Bool
  effective : Option BusZone
  reportedBlocked : Bool
  deriving DecidableEq, Repr

/-- A bus zone as it comes into existence: HOST and CTS clear, reported blocked no (R23). -/
def BusZoneRecord.fresh (z : BusZone) : BusZoneRecord :=
  { zone := z, host := false, cts := false, effective := none, reportedBlocked := false }

/-- A member of an effective zone; `minus` says it enters with sign -1 (R28 to R30). -/
structure Member where
  bay : Pos
  minus : Bool
  deriving DecidableEq, Repr

/-- The reasons of a block that hold, each with what it concerns (R37, R40); the check zone uses `cts` and `data` alone. -/
structure Reasons where
  host : List BusZone
  cts : List BusZone
  data : List Pos
  test : List Pos
  deriving DecidableEq, Repr

/-- An effective zone of a picture (R26 to R37). -/
structure EffZone where
  name : BusZone
  zones : List BusZone
  members : List Member
  changed : Bool
  reasons : Reasons
  deriving DecidableEq, Repr

/-- The check zone of a picture (R32, R35, R38). -/
structure CheckZone where
  members : List Pos
  changed : Bool
  cts : Bool
  data : List Pos
  deriving DecidableEq, Repr

/-- The picture of a release (R33). -/
structure Picture where
  sequence : Seq
  zones : List EffZone
  check : CheckZone
  deriving DecidableEq, Repr

/-- What the Zone Replica holds. -/
structure ZoneReplica where
  busZones : List BusZoneRecord
  checkCts : Bool
  checkReported : Bool
  picture : Option Picture
  recompute : Bool
  deriving DecidableEq, Repr

/-! ### Sequence Clock and Release Unit (R43 to R60) -/

/-- Clock state (R47). -/
inductive ClockState
  | free | locked | holdover
  deriving DecidableEq, Repr

/-- Cause of a change of clock state (R47). -/
inductive ClockCause
  | regularMarks | irregularMark | markTimeout | marksMissing
  deriving DecidableEq, Repr

/-- Station frequency, 50 or 60 Hz (R165). -/
inductive Frequency
  | hz50 | hz60
  deriving DecidableEq, Repr

/-- What the Sequence Clock holds. `runningRate` and `stretch` are the length of the sample period now running: its nominal rate
and what slewing has added to it in 1/256 SP (R43, R48). -/
structure Clock where
  state : ClockState
  current : Seq
  runningRate : Frequency
  stretch : Int
  marked : Bool
  markCount : BitVec 32
  atMark : Seq
  phaseError : Int
  sinceMark : Nat
  regularRun : Nat
  missing : Nat
  outstanding : Int
  deriving DecidableEq, Repr

/-- What the Release Unit holds (R52, R58). -/
structure ReleaseUnit where
  next : Seq
  blockCounter : Nat
  deriving DecidableEq, Repr

/-! ### Protection Controller (R164 to R170) -/

/-- Protection state (R164). -/
inductive Protection
  | halted | starting | running
  deriving DecidableEq, Repr

/-- State of an operation record (R81, R170). -/
inductive OpState
  | idle | busy | done
  deriving DecidableEq, Repr

/-- Result of a start (R170): `notMet` is the set of LINKS, with its bays, and CLOCK. -/
inductive StartResult
  | ok | noFeeder | aborted
  | notMet (links : List Pos) (clock : Bool)
  deriving DecidableEq, Repr

/-- The device operation record; its kind is NONE while `started` is no and START otherwise (R170). -/
structure DeviceOp where
  started : Bool
  state : OpState
  result : Option StartResult
  deriving DecidableEq, Repr

/-- The station parameters (R165). -/
structure Station where
  frequency : Frequency
  depth : Nat
  markRequired : Bool
  twoSections : Bool
  deriving DecidableEq, Repr

/-- What the Protection Controller holds. `restartPending` holds between the reply of a RESTART and the restart (R171). -/
structure Controller where
  protection : Protection
  station : Station
  op : DeviceOp
  waitTimer : Option Nat
  restartPending : Bool
  deriving DecidableEq, Repr

/-! ### Bay orders, latches, breaker failure and trip records (R133 to R153) -/

/-- The kinds of bay order (R151). -/
inductive OrderKind
  | testTrip | ping | enterTest | leaveTest | resetUnit
  deriving DecidableEq, Repr

/-- A bay order with its tag (R151). -/
structure Order where
  kind : OrderKind
  tag : Nat
  argument : Nat
  deriving DecidableEq, Repr

/-- The order in flight with its order timer (R152). -/
structure Flight where
  order : Order
  timer : Nat
  deriving DecidableEq, Repr

/-- A latch of a bay (R133). -/
structure Latch where
  set : Bool
  confirmed : Bool
  echo : Option Nat
  sequence : Seq
  deriving DecidableEq, Repr

/-- A latch after power-on reset (R154); its latch sequence is the model's choice (log entry 1). -/
def Latch.reset : Latch := { set := false, confirmed := false, echo := none, sequence := 0 }

/-- Breaker-failure state (R133). -/
inductive BfState
  | idle | timing | failed
  deriving DecidableEq, Repr

/-- Breaker-failure start cause (R133). -/
inductive StartCause
  | decision | backTrip | bfi
  deriving DecidableEq, Repr

/-- Failure reasons (R144). -/
inductive FailureReason
  | absent | current | breakerClosed
  deriving DecidableEq, Repr

/-- The trip state of a bay (R133). -/
structure TripState where
  trip : Latch
  transfer : Latch
  bf : BfState
  remaining : Nat
  clear : Nat
  cause : Option StartCause
  inFlight : Option Flight
  reserved : Option Order
  lastTag : Nat
  deriving DecidableEq, Repr

/-- A trip state after power-on reset (R154). -/
def TripState.reset : TripState :=
  { trip := .reset, transfer := .reset, bf := .idle, remaining := 0, clear := 0, cause := none
    inFlight := none, reserved := none, lastTag := 0 }

/-- The classifier of a zone (R119). -/
inductive Classifier
  | quiet | onset | internal | external
  deriving DecidableEq, Repr

/-- The mark stamp of a trip record (R51). -/
structure MarkStamp where
  count : BitVec 32
  offset : Int
  stale : Bool
  deriving DecidableEq, Repr

/-- Per tripped phase of a DIFFERENTIAL record: the zone's Id and Ir and the check zone's Id (R147). -/
structure TrippedPhase where
  phase : Phase
  id : Nat
  ir : Nat
  checkId : Nat
  deriving DecidableEq, Repr

/-- What a record holds by its cause (R147). -/
inductive RecordCause
  | differential (classifier : Classifier) (tripped : List TrippedPhase)
  | breakerFailure (failed : Pos) (reasons : List FailureReason) (start : Option StartCause)
  deriving DecidableEq, Repr

/-- A trip record (R147). -/
structure TripRecord where
  id : Nat
  cause : RecordCause
  zones : List BusZone
  phases : List Phase
  sequence : Seq
  stamp : MarkStamp
  bays : List Pos
  deriving DecidableEq, Repr

/-- What the Trip Unit holds, but for the zones' trip flags, which stand with the zones' other state. -/
structure TripUnit where
  bays : Table TripState
  records : List TripRecord
  nextId : Nat
  lost : Nat
  deriving DecidableEq, Repr

/-! ### Bay Links (R64, R84) -/

/-- Link state (R64). -/
inductive LinkState
  | down | dormant | hunt | lock | measure | active
  deriving DecidableEq, Repr

/-- Kind of a link operation (R81). -/
inductive LinkOpKind
  | none | openLink | reallocate
  deriving DecidableEq, Repr

/-- Result of a link operation (R81, R95, R96). -/
inductive LinkResult
  | ok | timeout | lateLink | overrun | aborted
  deriving DecidableEq, Repr

/-- The operation record of a link (R81). -/
structure LinkOp where
  kind : LinkOpKind
  state : OpState
  result : Option LinkResult
  wake : Bool
  deriving DecidableEq, Repr

/-- A link's operation record after either reset (R84). -/
def LinkOp.reset : LinkOp := { kind := .none, state := .idle, result := none, wake := false }

/-- The error counters of a link (R76). -/
inductive ErrorKind
  | crc | address | late | duplicate | overrun | syncLoss
  deriving DecidableEq, Repr

/-- The error counters and the suppressed count (R64, R76, R77). -/
structure ErrorCounts where
  crc : Nat
  address : Nat
  late : Nat
  duplicate : Nat
  overrun : Nat
  syncLoss : Nat
  suppressed : Nat
  deriving DecidableEq, Repr

/-- All zero. -/
def ErrorCounts.zero : ErrorCounts :=
  { crc := 0, address := 0, late := 0, duplicate := 0, overrun := 0, syncLoss := 0, suppressed := 0 }

/-- A downstream frame (R62): its bay address is the link's number, and order none is kind NONE with tag and argument 0. -/
structure DownFrame where
  address : Nat
  sequence : Seq
  grant : Seq
  trip : Bool
  transferTrip : Bool
  order : Option Order
  deriving DecidableEq, Repr

/-- A link record (R64); `lane` is what LTXn sends, none while the lane is idle (R61). -/
structure LinkRecord where
  state : LinkState
  recovery : Bool
  wakeOption : Bool
  activitySeen : Bool
  extension : Nat
  timer : Option Nat
  good : Nat
  lastGood : Option Seq
  sinceGood : Nat
  lagMin : Option Int
  lagMax : Option Int
  errors : ErrorCounts
  op : LinkOp
  lane : Option DownFrame
  deriving DecidableEq, Repr

/-- A link record after either reset (R84). -/
def LinkRecord.reset : LinkRecord :=
  { state := .down, recovery := false, wakeOption := false, activitySeen := false, extension := 0, timer := none, good := 0
    lastGood := none, sinceGood := 0, lagMin := none, lagMax := none, errors := .zero, op := .reset, lane := none }

/-! ### Frame Pool (R85, R86, R97) -/

/-- A contact pair of the status word: 1 is a closed contact (R63, R180). -/
structure ContactPair where
  closedIndicating : Bool
  openIndicating : Bool
  deriving DecidableEq, Repr

/-- The status word (R63). -/
structure StatusWord where
  isolatorA : ContactPair
  isolatorB : ContactPair
  breaker : ContactPair
  unitOk : Bool
  testMode : Bool
  bfi : Bool
  tripSeen : Bool
  transferSeen : Bool
  deriving DecidableEq, Repr

/-- A stored frame (R85); the link that stored it is the one whose pool holds it. -/
structure StoredFrame where
  sequence : Seq
  currents : PerPhase Int
  status : StatusWord
  echo : Byte
  deriving DecidableEq, Repr

/-- What the Frame Pool holds for one link; `frames` is strictly rising in sequence number, so that equal sets are equal lists. -/
structure LinkPool where
  span : Nat
  grant : Seq
  stalled : Bool
  frames : List StoredFrame
  deriving DecidableEq, Repr

/-- The pool of a link after power-on reset: grant limit next_release - 1 (R97). -/
def LinkPool.reset : LinkPool := { span := 0, grant := 65535, stalled := false, frames := [] }

/-! ### Differential Evaluator and Zone Supervision (R99, R119) -/

/-- The last results of one phase (R99); the check zone has no normal test, and holds no there. -/
structure PhaseResult where
  id : Nat
  ir : Nat
  normal : Bool
  mark : Bool
  count : Nat
  length : Nat
  met : Bool
  operating : Bool
  deriving DecidableEq, Repr

/-- The last results of a zone (R99). -/
structure ZoneResult where
  complete : Bool
  phases : PerPhase PhaseResult
  deriving DecidableEq, Repr

/-- The evaluation state of a live effective zone (R99). -/
structure EvalState where
  windows : PerPhase (List Bool)
  history : PerPhase (List Nat)
  last : Option ZoneResult
  deriving DecidableEq, Repr

/-- CT-supervision state of a zone (R119). -/
structure CtsState where
  counter : PerPhase Nat
  reported : PerPhase Bool
  deriving DecidableEq, Repr

/-- The classifier and its counts (R119). -/
structure ClassifierState where
  state : Classifier
  span : Nat
  onsetMarks : PerPhase Nat
  evolving : PerPhase Nat
  quiet : Nat
  deriving DecidableEq, Repr

/-- What the Evaluator, Zone Supervision and the Trip Unit hold for a live effective zone. -/
structure ZoneState where
  name : BusZone
  eval : EvalState
  classifier : ClassifierState
  cts : CtsState
  flag : Option (List Pos)
  deriving DecidableEq, Repr

/-- What they hold for the check zone. -/
structure CheckState where
  windows : PerPhase (List Bool)
  last : Option ZoneResult
  cts : CtsState
  deriving DecidableEq, Repr

/-- The cleared evaluation and supervision state (R36, R130). -/
def EvalState.fresh : EvalState := { windows := ⟨[], [], []⟩, history := ⟨[], [], []⟩, last := none }
def CtsState.fresh : CtsState := { counter := ⟨0, 0, 0⟩, reported := ⟨false, false, false⟩ }
def ClassifierState.fresh : ClassifierState :=
  { state := .quiet, span := 0, onsetMarks := ⟨0, 0, 0⟩, evolving := ⟨0, 0, 0⟩, quiet := 0 }
def ZoneState.fresh (z : BusZone) : ZoneState :=
  { name := z, eval := .fresh, classifier := .fresh, cts := .fresh, flag := none }
def CheckState.fresh : CheckState := { windows := ⟨[], [], []⟩, last := none, cts := .fresh }

/-! ### Settings Store (R155, R163) -/

/-- A settings group (R155). -/
structure Settings where
  idmin : Nat
  slope : Nat
  slopeX : Nat
  w : Nat
  m : Nat
  czIdmin : Nat
  czSlope : Nat
  czM : Nat
  onsetStep : Nat
  onsetSpan : Nat
  irreset : Nat
  quietSpan : Nat
  ctsLevel : Nat
  ctsSpan : Nat
  ibf : Nat
  bfTime : Nat
  openDebounce : Nat
  travelLimit : Nat
  echoSpan : Nat
  deriving DecidableEq, Repr

/-- The defaults (R155). -/
def Settings.default : Settings :=
  { idmin := 1200, slope := 32, slopeX := 52, w := 16, m := 10, czIdmin := 1000, czSlope := 16, czM := 8
    onsetStep := 2000, onsetSpan := 6, irreset := 500, quietSpan := 240, ctsLevel := 100, ctsSpan := 4800
    ibf := 200, bfTime := 360, openDebounce := 24, travelLimit := 24000, echoSpan := 48 }

/-- The names of the settings fields (R155). -/
inductive SettingsField
  | idmin | slope | slopeX | w | m | czIdmin | czSlope | czM | onsetStep | onsetSpan | irreset | quietSpan
  | ctsLevel | ctsSpan | ibf | bfTime | openDebounce | travelLimit | echoSpan
  deriving DecidableEq, Repr

/-- Why a boundary was passed over (R159). -/
inductive PassReason
  | latch | notQuiet
  deriving DecidableEq, Repr

/-- What the Settings Store holds. -/
structure SettingsStore where
  active : Settings
  staged : Settings
  stagedValid : Bool
  firstInvalid : Option SettingsField
  switchPending : Bool
  passed : Nat
  lastReason : Option PassReason
  deriving DecidableEq, Repr

/-! ### Notices (R176) -/

/-- The subject of a notice (R176). -/
inductive Subject
  | bay (p : Pos)
  | link (p : Pos)
  | busZone (z : BusZone)
  | device
  | nobody
  deriving DecidableEq, Repr

/-- Cause of ORDER_CANCELLED (R153). -/
inductive CancelCause
  | latch | service
  deriving DecidableEq, Repr

/-- Wake outcome of LINK_ACTIVITY (R79). -/
inductive WakeOutcome
  | none | started | belowDepth
  deriving DecidableEq, Repr

/-- Trigger of SETTINGS_SWITCHED (R160): BOUNDARY carries the sequence of the boundary release. -/
inductive SwitchTrigger
  | request
  | boundary (s : Seq)
  deriving DecidableEq, Repr

/-- The kinds of notice with their detail fields, in the order of the table of R176; `checkBlocked` and `checkUnblocked` are
ZONE_BLOCKED and ZONE_UNBLOCKED of the check zone, and CT_SUPERVISION of the check zone has zone none. -/
inductive NoticeDetail
  | tripDecision (zone : BusZone) (zones : List BusZone) (phases : List Phase) (bays : List Pos) (s : Seq) (record : Option Nat)
  | tripRetrip (s : Seq)
  | bfFailed (reasons : List FailureReason) (currents : Option (PerPhase Int)) (cause : Option StartCause) (bays : List Pos)
      (s : Seq) (record : Option Nat)
  | tripUnconfirmed (latch : LatchKind) (s : Seq)
  | orderDone (kind : OrderKind) (tag : Nat) (s : Seq)
  | orderTimeout (kind : OrderKind) (tag : Nat)
  | orderCancelled (kind : OrderKind) (tag : Nat) (cause : CancelCause)
  | linkActive (recovery : Bool) (lagMin lagMax : Option Int) (wake : Option Bool)
  | linkLost (lastGood : Option Seq)
  | linkActivity (s : Seq) (outcome : WakeOutcome)
  | linkErrors (counter : ErrorKind) (value : Nat)
  | linkOpDone (kind : LinkOpKind) (result : LinkResult) (wake : Bool)
  | startDone (result : StartResult)
  | zoneBlocked (zone : BusZone) (zones changed : List BusZone) (reasons : Reasons)
  | checkBlocked (cts : Bool) (data : List Pos)
  | zoneUnblocked (zone : BusZone) (zones changed : List BusZone)
  | checkUnblocked
  | ctSupervision (zone : Option BusZone) (zones : List BusZone) (phases : List (Phase × Nat))
  | isolatorStuck (element : Element) (travel : Nat)
  | breakerStuck (element : Element) (travel : Nat)
  | contactInvalid (element : Element) (s : Seq)
  | maintenanceViolation (elements : List Element)
  | testModeSeen (entered : Bool)
  | dataLost (lastPresent : Option Seq)
  | dataRestored
  | settingsSwitched (trigger : SwitchTrigger) (passed : Nat) (fields : List SettingsField)
  | clockState (previous new : ClockState) (cause : ClockCause) (markCount : BitVec 32) (atMark : Seq) (phaseError : Int)
  | recordsNearlyFull (held : Nat)
  | recordLost (breakerFailure : Bool) (s : Seq) (lost : Nat)
  deriving DecidableEq, Repr

/-- A notice in the queue, with its sequence at posting (R51, R176). -/
structure Notice where
  subject : Subject
  detail : NoticeDetail
  postedAt : Seq
  deriving DecidableEq, Repr

/-! ### Replies (R175) -/

/-- The result codes, in the order of their numbers (R175). -/
inductive ResultCode
  | ok | accepted | sent | reserved | busy | portBusy | badState | badKind | badLength | badValue | notConfigured
  | notDead | conflict | noPool | belowDepth | bfRunning | tripLatched | currentFlowing | linkNotActive | noStaged
  | pending | noRecord
  deriving DecidableEq, Repr

/-- The fields that a BAD_VALUE reply may name (R3, R11, R24, R165). -/
inductive FieldName
  | bayNumber | kind | sectionNo | bus | scale | polarity | alloc
  | frequency | depth | markRequired | sections
  deriving DecidableEq, Repr

/-- The trip state of a bay as READ_RECORD and RESET_TRIP report it (R141, R149): the orders as kind and tag. -/
structure TripSummary where
  bay : Pos
  trip : Latch
  transfer : Latch
  bf : BfState
  remaining : Nat
  cause : Option StartCause
  inFlight : Option (OrderKind × Nat)
  reserved : Option (OrderKind × Nat)
  deriving DecidableEq, Repr

/-- An effective zone's entry in the reply to READ_ZONE (R116); `result` none is evaluated no. -/
structure ZoneEntry where
  zone : EffZone
  live : Bool
  blocked : Bool
  classifier : Classifier
  slope : Nat
  threshold : Nat
  result : Option ZoneResult
  historyLength : PerPhase Nat
  flag : Bool
  deriving DecidableEq, Repr

/-- The check zone's entry in the reply to READ_ZONE (R116). -/
structure CheckEntry where
  zone : CheckZone
  live : Bool
  blocked : Bool
  result : Option ZoneResult
  deriving DecidableEq, Repr

/-- The pool fields of a REALLOCATE reply (R91). -/
structure PoolView where
  alloc : Nat
  span : Nat
  grant : Seq
  stalled : Bool
  deriving DecidableEq, Repr

/-- The reply fields after the result code, by the rule of the request. -/
inductive ReplyFields
  | nothing
  /-- BAD_VALUE naming a field (R3, R165). -/
  | field (f : FieldName)
  /-- BAD_VALUE naming the element given (R11). -/
  | element (e : Nat)
  /-- BAD_VALUE naming the bus zone (R24, R25). -/
  | zone (z : BusZone)
  /-- IDENTIFY (R179): what may change; the codes and capacities are constants. -/
  | identity (rate : Nat) (framing length gap crc busy overflow lostNotices : Nat) (protection : Protection)
  /-- FETCH_NOTICES (R177). -/
  | notices (removed : List Notice) (held lost : Nat)
  /-- SET_STATION (R165). -/
  | station (s : Station)
  /-- START_PROTECTION (R166). -/
  | deviceOp (op : DeviceOp)
  /-- QUERY_OPERATION of DEVICE (R170). -/
  | deviceStatus (op : DeviceOp) (protection : Protection) (wait : Option Nat) (condition : Bool) (notActive : List Pos) (locked : Bool)
  /-- QUERY_OPERATION of a bay (R170). -/
  | linkStatus (op : LinkOp) (state : LinkState)
  /-- CONFLICT of CONFIGURE_BAY (R3): the other bay where there is one. -/
  | conflicting (p : Option Pos)
  /-- CONFLICT of SET_STATION (R165): the lowest bay that a station of one section has no place for. -/
  | misplaced (p : Pos)
  /-- CONFIGURE_BAY refused NO_POOL (R3). -/
  | freeBudget (n : Nat)
  /-- OVERRIDE (R11). -/
  | replica (r : Replica)
  /-- READ_BAY (R21). -/
  | bay (p : Pos) (b : BayRecord) (isolatorA isolatorB breaker : Replica) (dead : Bool)
  /-- BLOCK_ZONE and UNBLOCK_ZONE (R24, R25). -/
  | zoneFlags (flags : List (BusZone × Bool × Bool)) (checkCts pending : Bool)
  /-- READ_ZONE (R115). -/
  | zones (protection : Protection) (last : Option Seq) (settings : Settings) (entries : List ZoneEntry) (check : Option CheckEntry)
  /-- READ_CLOCK (R59). -/
  | clock (c : Clock) (frequency : Frequency) (next : Seq) (depth blockCounter : Nat)
  /-- READ_LINK (R83). -/
  | link (r : LinkRecord) (suppression : Bool) (pool : PoolView) (held : Nat)
  /-- REALLOCATE (R91): the pool fields of the bay, or the bay number given where there is no such bay; the free budget. -/
  | pool (view : PoolView) (free : Nat)
  | poolOfNoBay (number : Nat) (free : Nat)
  /-- STAGE_SETTINGS (R156): the field named by BAD_VALUE, the validity, the first invalid field. -/
  | staged (named : Option SettingsField) (valid : Bool) (first : Option SettingsField)
  /-- READ_SETTINGS (R162): the group selected with its validity and first invalid field; ACTIVE is always valid. -/
  | settings (group : Settings) (valid : Bool) (first : Option SettingsField) (pending : Bool) (passed : Nat) (reason : Option PassReason)
  /-- SWITCH_SETTINGS with cancel yes (R161). -/
  | switchPending (p : Bool)
  /-- SEND_ORDER (R151). -/
  | tag (n : Nat)
  /-- RESET_TRIP of one bay (R141). -/
  | trip (t : TripSummary)
  /-- RESET_TRIP with ALL (R141). -/
  | resetAll (reset : List Pos) (refused : List (Pos × ResultCode))
  /-- READ_RECORD (R149). -/
  | records (record : Option TripRecord) (ids : List Nat) (nextId lost : Nat) (bays : List TripSummary)
  /-- RELEASE_RECORD (R150). -/
  | recordsHeld (n : Nat)
  deriving DecidableEq, Repr

/-- A reply: the result code and the reply fields (R175). -/
structure Reply where
  code : ResultCode
  fields : ReplyFields
  deriving DecidableEq, Repr

/-! ### Message Port (R173 to R179) -/

/-- A received request (R173, R181). -/
structure RawRequest where
  kind : Byte
  tag : Byte
  body : List Byte
  deriving DecidableEq, Repr

/-- What the current place waits for: the transmitter, the end of its reply, or, after the reply of a RESTART, the restart. -/
inductive PlacePhase
  | replyMade | sending | restarting
  deriving DecidableEq, Repr

/-- The current place: the request in work with its reply frame (R174). -/
structure Place where
  request : RawRequest
  reply : List Byte
  restarts : Bool
  phase : PlacePhase
  deriving DecidableEq, Repr

/-- The reply frame that the transmitter is sending (R174). -/
structure Sending where
  portBusy : Bool
  bytes : List Byte
  deriving DecidableEq, Repr

/-- What the Message Port holds. -/
structure Port where
  rate : Nat
  inside : Bool
  framing : Nat
  length : Nat
  gap : Nat
  crc : Nat
  busy : Nat
  overflow : Nat
  current : Option Place
  held : Option RawRequest
  waitingBusy : Option RawRequest
  sending : Option Sending
  notices : List Notice
  lostNotices : Nat
  attn : Bool
  armed : Bool
  deriving DecidableEq, Repr

/-- RESETn and the rate straps as sampled (R172, R173). -/
structure Pins where
  inReset : Bool
  rate1 : Bool
  rate0 : Bool
  deriving DecidableEq, Repr

/-- The line rate in bit/s that the straps RATE1 and RATE0 give (R173). -/
def Pins.lineRate (rate1 rate0 : Bool) : Nat :=
  match rate1, rate0 with
  | false, false => 115200
  | false, true => 460800
  | true, false => 921600
  | true, true => 2000000

/-! ### The machine -/

/-- The state of the KB24; `pending` is the queue of commands that are waiting, first in, first out. -/
structure State where
  pending : List Instr
  pins : Pins
  clock : Clock
  releaseUnit : ReleaseUnit
  controller : Controller
  bays : Table BayRecord
  replica : ZoneReplica
  links : Table LinkRecord
  pool : Table LinkPool
  zones : List ZoneState
  check : Option CheckState
  trip : TripUnit
  settings : SettingsStore
  port : Port
  lastReply : Option Reply
  deriving DecidableEq, Repr

/-- Why the machine stops with a fault: never. The spec names no condition that stops the part, so there is no constructor. -/
inductive Fault : Type
  deriving DecidableEq, Repr

/-- Why the model refuses a command. -/
inductive Refusal
  /-- Raised by an arm of exec whose command has no meaning yet; none is left, and raising it is safe. -/
  | notModelled (mnemonic : String)
  deriving DecidableEq, Repr

/-! ### Reset values, block by block -/

/-- The clock after power-on reset (R60). -/
def Clock.reset : Clock :=
  { state := .free, current := 0, runningRate := .hz50, stretch := 0, marked := false, markCount := 0, atMark := 0
    phaseError := 0, sinceMark := 65535, regularRun := 0, missing := 0, outstanding := 0 }

/-- The device operation record after either reset (R171, R172). -/
def DeviceOp.reset : DeviceOp := { started := false, state := .idle, result := none }

/-- The Protection Controller after power-on reset (R172). -/
def Controller.reset : Controller :=
  { protection := .halted, station := { frequency := .hz50, depth := 4, markRequired := false, twoSections := false }
    op := .reset, waitTimer := none, restartPending := false }

/-- The Zone Replica after power-on reset (R42). -/
def ZoneReplica.reset : ZoneReplica :=
  { busZones := [.fresh .a1, .fresh .b1], checkCts := false, checkReported := false, picture := none, recompute := false }

/-- The Trip Unit after power-on reset (R154). -/
def TripUnit.reset : TripUnit := { bays := .replicate .reset, records := [], nextId := 0, lost := 0 }

/-- The Settings Store after power-on reset (R163). -/
def SettingsStore.reset : SettingsStore :=
  { active := .default, staged := .default, stagedValid := false, firstInvalid := none, switchPending := false, passed := 0
    lastReason := none }

/-- The Message Port after power-on reset with the straps as sampled (R173, R179). -/
def Port.reset (rate1 rate0 : Bool) : Port :=
  { rate := Pins.lineRate rate1 rate0, inside := false, framing := 0, length := 0, gap := 0, crc := 0, busy := 0, overflow := 0
    current := none, held := none, waitingBusy := none, sending := none, notices := [], lostNotices := 0, attn := false
    armed := true }

/-- Every block at its power-on value, with the straps as sampled and the queue given (R172). -/
def State.powerOn (rate1 rate0 : Bool) (pending : List Instr) : State :=
  { pending := pending, pins := { inReset := false, rate1 := rate1, rate0 := rate0 }, clock := .reset
    releaseUnit := { next := 0, blockCounter := 0 }, controller := .reset, bays := .replicate .reset, replica := .reset
    links := .replicate .reset, pool := .replicate .reset, zones := [], check := none, trip := .reset, settings := .reset
    port := .reset rate1 rate0, lastReply := none }

/-- The machine right after power-on reset (R172), with no command waiting. -/
def State.reset : State := State.powerOn Config.resetRate1 Config.resetRate0 []

end Sys2Proof.Machine
end

