-- ==== Sys2Proof/Machine/Ops.lean ====
section
/-! DEFINITION. The named operations every block uses: sequence comparison, tables, counts that hold, posting notices with ATTN, replies, and the gate of RESETn. -/

namespace Sys2Proof

/-- The phases of a per-phase value. -/
def PerPhase.get {α : Type} (x : PerPhase α) : Machine.Phase → α
  | .l1 => x.l1
  | .l2 => x.l2
  | .l3 => x.l3

def PerPhase.map {α β : Type} (f : α → β) (x : PerPhase α) : PerPhase β := ⟨f x.l1, f x.l2, f x.l3⟩

def PerPhase.zip {α β γ : Type} (f : α → β → γ) (x : PerPhase α) (y : PerPhase β) : PerPhase γ :=
  ⟨f x.l1 y.l1, f x.l2 y.l2, f x.l3 y.l3⟩

def PerPhase.any {α : Type} (f : α → Bool) (x : PerPhase α) : Bool := f x.l1 || f x.l2 || f x.l3

def PerPhase.all {α : Type} (f : α → Bool) (x : PerPhase α) : Bool := f x.l1 && f x.l2 && f x.l3

/-- The set of phases marked, in the order L1, L2, L3. -/
def PerPhase.phases (x : PerPhase Bool) : List Machine.Phase :=
  (if x.l1 then [.l1] else []) ++ (if x.l2 then [.l2] else []) ++ (if x.l3 then [.l3] else [])

namespace Machine

/-! ### Sequence numbers (R44, R55) -/

/-- s is ahead of t when (s - t) mod 65536 lies between 1 and 32767 inclusive (R44). -/
def ahead (s t : Seq) : Bool := 1 ≤ (s - t).toNat && (s - t).toNat ≤ 32767

/-- s is behind t when t is ahead of s (R44). -/
def behind (s t : Seq) : Bool := ahead t s

/-- The current sequence c has reached t when it equals t or is ahead of t (R43). -/
def reached (c t : Seq) : Bool := c == t || ahead c t

/-- s - t read as a signed number (R51, R55); the difference of half the range reads -32768. -/
def signedDiff (s t : Seq) : Int := (s - t).toInt

/-- A count as a sequence number, for "s + k" and "s - k" (R44). -/
def seqOf (n : Nat) : Seq := BitVec.ofNat 16 n

/-! ### Counts that hold at a limit -/

/-- A count raised by one that holds at `cap`. -/
def raise (cap n : Nat) : Nat := min (n + 1) cap

/-- A count of 0 to 65535 raised by one. -/
def raise16 (n : Nat) : Nat := raise 65535 n

/-! ### Tables -/

/-- Every position in ascending bay number. -/
def allPos : List Pos :=
  [0, 1, 2, 3, 4, 5, 6, 7, 8, 9, 10, 11, 12, 13, 14, 15, 16, 17, 18, 19, 20, 21, 22, 23]

/-- The bay or link number of a position (R1). -/
def number (p : Pos) : Nat := p.val + 1

/-- The cell at a position. -/
def Table.get {α : Type} (t : Table α) (p : Pos) : α := t.cells.get ⟨p.val, by rw [t.size]; exact p.isLt⟩

/-- The table with one cell replaced. -/
def Table.set {α : Type} (t : Table α) (p : Pos) (a : α) : Table α :=
  ⟨t.cells.set p.val a, by rw [List.length_set]; exact t.size⟩

/-- The table with one cell changed. -/
def Table.modify {α : Type} (t : Table α) (p : Pos) (f : α → α) : Table α := t.set p (f (t.get p))

/-- The table with every cell changed. -/
def Table.map {α β : Type} (f : α → β) (t : Table α) : Table β :=
  ⟨t.cells.map f, by rw [List.length_map]; exact t.size⟩

/-- A table written out by position. -/
def Table.build {α : Type} (f : Pos → α) : Table α := ⟨allPos.map f, by rw [List.length_map]; rfl⟩

/-- The positions whose cell meets a test, in ascending bay number. -/
def Table.where {α : Type} (t : Table α) (f : α → Bool) : List Pos := allPos.filter fun p => f (t.get p)

/-- Some cell meets a test. -/
def Table.any {α : Type} (t : Table α) (f : α → Bool) : Bool := t.cells.any f

/-! ### Changing one part of the state -/

def State.modBay (s : State) (p : Pos) (f : BayRecord → BayRecord) : State := { s with bays := s.bays.modify p f }
def State.modLink (s : State) (p : Pos) (f : LinkRecord → LinkRecord) : State := { s with links := s.links.modify p f }
def State.modPool (s : State) (p : Pos) (f : LinkPool → LinkPool) : State := { s with pool := s.pool.modify p f }
def State.modTrip (s : State) (p : Pos) (f : TripState → TripState) : State :=
  { s with trip := { s.trip with bays := s.trip.bays.modify p f } }

/-- The bay record, link record, pool and trip state of a position. -/
def State.bay (s : State) (p : Pos) : BayRecord := s.bays.get p
def State.link (s : State) (p : Pos) : LinkRecord := s.links.get p
def State.linkPool (s : State) (p : Pos) : LinkPool := s.pool.get p
def State.tripState (s : State) (p : Pos) : TripState := s.trip.bays.get p

/-- The active settings group (R155). -/
def State.active (s : State) : Settings := s.settings.active

/-- D, the release depth (R165). -/
def State.depth (s : State) : Nat := s.controller.station.depth

/-- next_release (R52). -/
def State.next (s : State) : Seq := s.releaseUnit.next

/-! ### Notices (R51, R176, R178) -/

/-- What a block reports: the subject and the detail; posting stamps it. -/
structure Report where
  subject : Subject
  detail : NoticeDetail
  deriving DecidableEq, Repr

/-- A notice joins the queue, raising ATTN if armed, or is dropped and counted when the queue holds 32 (R176, R178). -/
def Port.join (q : Port) (n : Notice) : Port :=
  if q.notices.length < Config.noticeCapacity then
    { q with notices := q.notices ++ [n], attn := q.attn || q.armed, armed := false }
  else { q with lostNotices := raise16 q.lostNotices }

/-- A block posts a report; the notice carries the current sequence as its sequence at posting (R51). -/
def State.post (s : State) (r : Report) : State :=
  { s with port := s.port.join { subject := r.subject, detail := r.detail, postedAt := s.clock.current } }

/-- Several reports, in order. -/
def State.postAll (s : State) (rs : List Report) : State := rs.foldl State.post s

/-! ### Host requests -/

/-- What the owner of a request hands back: the state after the request and the reply (R174). -/
structure Answer where
  state : State
  reply : Reply

/-- A reply with no fields. -/
def Reply.bare (c : ResultCode) : Reply := { code := c, fields := .nothing }

/-- The request is answered and nothing is changed. -/
def State.answer (s : State) (c : ResultCode) (f : ReplyFields := .nothing) : Answer :=
  { state := s, reply := { code := c, fields := f } }

/-- A request taken by its owner: nothing happens while RESETn is low, when the part receives nothing (R172). -/
def request (owner : State → Answer) (s : State) : Host.Outcome State Fault Refusal :=
  if s.pins.inReset then .next s
  else .next { (owner s).state with lastReply := some (owner s).reply }

/-- An event taken whole; nothing happens while RESETn is low (R172). -/
def event (work : State → State) (s : State) : Host.Outcome State Fault Refusal :=
  if s.pins.inReset then .next s else .next (work s)

end Machine

end Sys2Proof
end

