-- ==== Sys2Proof/Machine/Operands.lean ====
section
/-! DEFINITION. Reading operands: bay numbers, named values, yes/no, lists of bus zones, settings groups, and the bytes of link frames with their CRC. -/

namespace Sys2Proof.Machine

/-! ### Fields of host requests (R175, R181) -/

/-- A bay number 1..24 as a position. -/
def bayOf (n : Nat) : Option Pos :=
  if h : 1 ≤ n ∧ n ≤ 24 then some ⟨n - 1, by omega⟩ else none

/-- A yes/no field: 0 for no, 1 for yes. -/
def yesNo : Nat → Option Bool
  | 0 => some false
  | 1 => some true
  | _ => none

/-- KIND: FEEDER, COUPLER, SECTION. -/
def kindOf : Nat → Option BayKind
  | 0 => some .feeder
  | 1 => some .coupler
  | 2 => some .sectionBay
  | _ => none

/-- SECTION, the number 1 or 2. -/
def sectionOf : Nat → Option SectionNo
  | 1 => some .one
  | 2 => some .two
  | _ => none

/-- BUS: A, B. -/
def busOf : Nat → Option Bus
  | 0 => some .a
  | 1 => some .b
  | _ => none

/-- POLARITY: NORMAL, REVERSED. -/
def polarityOf : Nat → Option Polarity
  | 0 => some .normal
  | 1 => some .reversed
  | _ => none

/-- SERVICE: OUT_OF_SERVICE, MAINTENANCE, IN_SERVICE (R1). -/
def serviceOf : Nat → Option Service
  | 0 => some .outOfService
  | 1 => some .maintenance
  | 2 => some .inService
  | _ => none

/-- An element: isolator A, isolator B, breaker (R2). -/
def elementOf : Nat → Option Element
  | 0 => some .isolatorA
  | 1 => some .isolatorB
  | 2 => some .breaker
  | _ => none

/-- OVERRIDE: NONE, FORCE_OPEN, FORCE_CLOSED (R11). -/
def forcingOf : Nat → Option Forcing
  | 0 => some .none
  | 1 => some .forceOpen
  | 2 => some .forceClosed
  | _ => none

/-- A bus zone: A1, B1, A2, B2 (R23). -/
def zoneOf : Nat → Option BusZone
  | 0 => some .a1
  | 1 => some .b1
  | 2 => some .a2
  | 3 => some .b2
  | _ => none

/-- An order kind as SEND_ORDER carries it, in the order its rule lists the kinds (R151). -/
def orderKindOf : Nat → Option OrderKind
  | 0 => some .testTrip
  | 1 => some .ping
  | 2 => some .enterTest
  | 3 => some .leaveTest
  | 4 => some .resetUnit
  | _ => none

/-- The station frequency, 50 or 60 (R165). -/
def frequencyOf : Nat → Option Frequency
  | 50 => some .hz50
  | 60 => some .hz60
  | _ => none

/-- The list of values read one by one, none when some value is outside the list. -/
def readAll {α : Type} (f : Nat → Option α) : List Nat → Option (List α)
  | [] => some []
  | n :: ns =>
    match f n, readAll f ns with
    | some a, some as => some (a :: as)
    | _, _ => none

/-- A whole settings group: exactly nineteen fields in the order of R155. -/
def settingsOf : List Nat → Option Settings
  | [idmin, slope, slopeX, w, m, czIdmin, czSlope, czM, onsetStep, onsetSpan, irreset, quietSpan, ctsLevel, ctsSpan, ibf, bfTime,
      openDebounce, travelLimit, echoSpan] =>
    some { idmin, slope, slopeX, w, m, czIdmin, czSlope, czM, onsetStep, onsetSpan, irreset, quietSpan, ctsLevel, ctsSpan, ibf,
           bfTime, openDebounce, travelLimit, echoSpan }
  | _ => none

/-- The fields of a group in the order of R155. -/
def Settings.toList (g : Settings) : List (SettingsField × Nat) :=
  [(.idmin, g.idmin), (.slope, g.slope), (.slopeX, g.slopeX), (.w, g.w), (.m, g.m), (.czIdmin, g.czIdmin),
   (.czSlope, g.czSlope), (.czM, g.czM), (.onsetStep, g.onsetStep), (.onsetSpan, g.onsetSpan), (.irreset, g.irreset),
   (.quietSpan, g.quietSpan), (.ctsLevel, g.ctsLevel), (.ctsSpan, g.ctsSpan), (.ibf, g.ibf), (.bfTime, g.bfTime),
   (.openDebounce, g.openDebounce), (.travelLimit, g.travelLimit), (.echoSpan, g.echoSpan)]

/-! ### CRC and the upstream frame (R180) -/

/-- One bit of the CRC-16 with polynomial 0x1021, most significant bit first. -/
def crcBit (c : BitVec 16) : BitVec 16 := if c.msb then (c <<< 1) ^^^ 0x1021#16 else c <<< 1

/-- One byte of the CRC. -/
def crcByte (c : BitVec 16) (b : Byte) : BitVec 16 :=
  crcBit (crcBit (crcBit (crcBit (crcBit (crcBit (crcBit (crcBit (c ^^^ (b.zeroExtend 16 <<< 8)))))))))

/-- The CRC of a list of bytes, initial value 0xFFFF, no final inversion. -/
def crc16 (bs : List Byte) : BitVec 16 := bs.foldl crcByte 0xFFFF#16

/-- Two bytes, most significant first. -/
def word16 (hi lo : Byte) : BitVec 16 := hi ++ lo

/-- A signed current of three bytes, most significant first. -/
def current24 (a b c : Byte) : Int := (a ++ b ++ c : BitVec 24).toInt

/-- A contact pair: bit 1 closed-indicating, bit 0 open-indicating. -/
def pairOf (b : Byte) : ContactPair := { closedIndicating := b.getLsbD 1, openIndicating := b.getLsbD 0 }

/-- What an upstream frame turns out to be on link p (R61). -/
inductive FrameClass
  | badCrc
  | misaddressed
  | good (f : StoredFrame)
  deriving DecidableEq, Repr

/-- The 19 bytes of an upstream frame read by the layout of R180; fewer bytes are a frame cut short, which is a bad-CRC frame (R61). -/
def classify (p : Pos) : List Byte → FrameClass
  | [b0, b1, b2, b3, b4, b5, b6, b7, b8, b9, b10, b11, b12, b13, b14, b15, b16, b17, b18] =>
    if crc16 [b0, b1, b2, b3, b4, b5, b6, b7, b8, b9, b10, b11, b12, b13, b14, b15, b16] ≠ word16 b17 b18 then .badCrc
    else if b0.toNat ≠ number p then .misaddressed
    else .good
      { sequence := word16 b1 b2
        currents := ⟨current24 b3 b4 b5, current24 b6 b7 b8, current24 b9 b10 b11⟩
        status :=
          { isolatorA := pairOf b12, isolatorB := pairOf b13, breaker := pairOf b14
            unitOk := b15.getLsbD 4, testMode := b15.getLsbD 3, bfi := b15.getLsbD 2
            tripSeen := b15.getLsbD 1, transferSeen := b15.getLsbD 0 }
        echo := b16 }
  | _ => .badCrc

end Sys2Proof.Machine
end

