-- ==== Sys2Proof/Machine/Flags.lean ====
section
/-! DEFINITION. The conditions the blocks test: effective replicas and the dead-bay test, block reasons, latches, the start condition, and the error counters with their suppression. -/

namespace Sys2Proof.Machine

/-! ### Elements and the dead-bay test (R2, R12) -/

/-- The elements whose contact pairs are decoded for a kind (R2). -/
def BayKind.elements : BayKind → List Element
  | .feeder => [.isolatorA, .isolatorB, .breaker]
  | .coupler => [.breaker]
  | .sectionBay => [.breaker]

/-- The elements that may be overridden for a kind (R2). -/
def BayKind.overridable : BayKind → Element → Bool
  | .feeder, .isolatorA => true
  | .feeder, .isolatorB => true
  | .feeder, .breaker => false
  | .coupler, e => e == .breaker
  | .sectionBay, e => e == .breaker

/-- The record of an element. -/
def BayRecord.element (b : BayRecord) : Element → ElementRecord
  | .isolatorA => b.isolatorA
  | .isolatorB => b.isolatorB
  | .breaker => b.breaker

/-- The record with one element replaced. -/
def BayRecord.withElement (b : BayRecord) (e : Element) (r : ElementRecord) : BayRecord :=
  match e with
  | .isolatorA => { b with isolatorA := r }
  | .isolatorB => { b with isolatorB := r }
  | .breaker => { b with breaker := r }

/-- The effective replica: the override if one is in force on an element that may be overridden, the derived replica otherwise (R12). -/
def BayRecord.effective (b : BayRecord) (e : Element) : Replica :=
  if b.kind.overridable e then
    match (b.element e).forcing with
    | .none => (b.element e).derived
    | .forceOpen => .opened
    | .forceClosed => .closed
  else (b.element e).derived

/-- The effective replica is CLOSED. -/
def BayRecord.shut (b : BayRecord) (e : Element) : Bool := b.effective e == .closed

/-- The elements whose effective replicas decide the dead-bay test: a feeder's isolators, another bay's breaker (R12). -/
def BayKind.membership : BayKind → List Element
  | .feeder => [.isolatorA, .isolatorB]
  | .coupler => [.breaker]
  | .sectionBay => [.breaker]

/-- The dead-bay test (R12). -/
def BayRecord.dead (b : BayRecord) : Bool := b.kind.membership.all fun e => !b.shut e

/-- SERVICE is IN_SERVICE; a bay that is not configured is OUT_OF_SERVICE (R13). -/
def BayRecord.inService (b : BayRecord) : Bool := b.service == .inService

/-- An IN_SERVICE feeder (R32). -/
def BayRecord.liveFeeder (b : BayRecord) : Bool := b.inService && b.kind == .feeder

/-! ### Bus zones (R2, R23) -/

/-- Bus zones Ax and Bx. -/
def zoneA : SectionNo → BusZone
  | .one => .a1
  | .two => .a2
def zoneB : SectionNo → BusZone
  | .one => .b1
  | .two => .b2

/-- Bus zone X of section 1 and of section 2. -/
def zoneOne : Bus → BusZone
  | .a => .a1
  | .b => .b1
def zoneTwo : Bus → BusZone
  | .a => .a2
  | .b => .b2

/-! ### Block reasons (R37, R38) -/

/-- At least one reason holds. -/
def Reasons.blocked (r : Reasons) : Bool := !r.host.isEmpty || !r.cts.isEmpty || !r.data.isEmpty || !r.test.isEmpty
def EffZone.blocked (z : EffZone) : Bool := z.reasons.blocked
def CheckZone.blocked (c : CheckZone) : Bool := c.cts || !c.data.isEmpty

/-- An effective zone with at least one member is live (R31). -/
def EffZone.live (z : EffZone) : Bool := !z.members.isEmpty

/-! ### Latches and breaker failure (R133) -/

def TripState.latched (t : TripState) : Bool := t.trip.set || t.transfer.set
def TripState.timing (t : TripState) : Bool := t.bf == .timing
def TripState.failed (t : TripState) : Bool := t.bf == .failed

/-- Some bay holds a trip latch or a transfer-trip latch. -/
def State.anyLatch (s : State) : Bool := s.trip.bays.any TripState.latched

/-- Some bay's breaker-failure record is TIMING. -/
def State.anyTiming (s : State) : Bool := s.trip.bays.any TripState.timing

/-- At least one of three currents is at or above IBF in magnitude (R141, R143, R144). -/
def flowing (ibf : Nat) (i : PerPhase Int) : Bool := i.any fun x => ibf ≤ x.natAbs

/-! ### Links -/

/-- HUNT, LOCK, MEASURE and ACTIVE: the link transmits (R65). -/
def LinkState.transmits : LinkState → Bool
  | .down => false
  | .dormant => false
  | .hunt => true
  | .lock => true
  | .measure => true
  | .active => true

/-- HUNT, LOCK and MEASURE: a bring-up or a recovery (R65). -/
def LinkState.bringingUp : LinkState → Bool
  | .hunt => true
  | .lock => true
  | .measure => true
  | _ => false

/-- The link's operation record is BUSY (R81). -/
def LinkRecord.busy (l : LinkRecord) : Bool := l.op.state == .busy

/-- The IN_SERVICE bays whose links are not ACTIVE, in ascending bay number (R167, R168). -/
def State.notActive (s : State) : List Pos :=
  allPos.filter fun p => (s.bay p).inService && (s.link p).state != .active

/-- MARK_REQUIRED is met: it is no, or the clock is LOCKED (R167). -/
def State.clockMet (s : State) : Bool := !s.controller.station.markRequired || s.clock.state == .locked

/-- The start condition (R167). -/
def State.startCondition (s : State) : Bool := s.notActive.isEmpty && s.clockMet

/-! ### Error counters (R76, R77) -/

def ErrorCounts.get (c : ErrorCounts) : ErrorKind → Nat
  | .crc => c.crc
  | .address => c.address
  | .late => c.late
  | .duplicate => c.duplicate
  | .overrun => c.overrun
  | .syncLoss => c.syncLoss

/-- One counter raised, holding at 65535. -/
def ErrorCounts.raised (c : ErrorCounts) : ErrorKind → ErrorCounts
  | .crc => { c with crc := raise16 c.crc }
  | .address => { c with address := raise16 c.address }
  | .late => { c with late := raise16 c.late }
  | .duplicate => { c with duplicate := raise16 c.duplicate }
  | .overrun => { c with overrun := raise16 c.overrun }
  | .syncLoss => { c with syncLoss := raise16 c.syncLoss }

/-- The reports of a rise from n: LINK_ERRORS when it brings the counter to a multiple of 64 (R76). -/
def errorReports (p : Pos) (k : ErrorKind) (n : Nat) : List Report :=
  if n < 65535 && (n + 1) % 64 == 0 then [{ subject := .link p, detail := .linkErrors k (n + 1) }] else []

/-- An error event on a link: counted and reported, or only added to the suppressed count while the bay is MAINTENANCE (R77). -/
def State.countError (s : State) (p : Pos) (k : ErrorKind) : State :=
  if (s.bay p).service == .maintenance then
    s.modLink p fun l => { l with errors := { l.errors with suppressed := raise16 l.errors.suppressed } }
  else
    (s.modLink p fun l => { l with errors := l.errors.raised k }).postAll (errorReports p k ((s.link p).errors.get k))

end Sys2Proof.Machine
end

