-- ==== Sys2Proof/Machine/FramePool.lean ====
section
/-! DEFINITION. The Frame Pool: the set of frames of each link, grant limits, the budget, the drain and the end of a shrink (R85 to R98). -/

namespace Sys2Proof.Machine

/-! ### The set of frames of a link (R85) -/

/-- The frame held for a sequence. -/
def findFrame (s : Seq) (fs : List StoredFrame) : Option StoredFrame := fs.find? fun f => f.sequence == s

/-- A frame is put in its place by sequence number; a frame already held for the sequence stays (R85). -/
def insertFrame (f : StoredFrame) : List StoredFrame → List StoredFrame
  | [] => [f]
  | g :: gs =>
    if f.sequence.toNat < g.sequence.toNat then f :: g :: gs
    else if f.sequence = g.sequence then g :: gs
    else g :: insertFrame f gs

/-- The slots holding a frame for s are freed (R90). -/
def freeFrame (s : Seq) (fs : List StoredFrame) : List StoredFrame := fs.filter fun f => f.sequence != s

/-- The canonical form: strictly rising in sequence number. -/
def framesSorted : List StoredFrame → Bool
  | [] => true
  | [_] => true
  | f :: g :: gs => f.sequence.toNat < g.sequence.toNat && framesSorted (g :: gs)

/-- Every link's set of frames has the canonical form. -/
abbrev State.poolSorted (s : State) : Prop := ∀ p, framesSorted (s.linkPool p).frames = true

/-! ### Grants and the budget (R86 to R88) -/

/-- next_release + span - 1 (R86). -/
def grantFor (next : Seq) (span : Nat) : Seq := next + seqOf span - 1

/-- The sum of ALLOC over all configured bays (R87). -/
def budgetUsed (bays : Table BayRecord) : Nat :=
  (bays.cells.map fun b => if b.configured then b.alloc else 0).foldl (· + ·) 0

/-- The free budget (R87). -/
def freeBudget (bays : Table BayRecord) : Nat := Config.slotCount - budgetUsed bays

/-- The allocation is applied: granted span, grant limit, not stalled (R92, R93, R95, R96). -/
def LinkPool.applied (q : LinkPool) (next : Seq) (alloc : Nat) : LinkPool :=
  { q with span := alloc, grant := grantFor next alloc, stalled := false }

/-- The held span of a stalled link (R95). -/
def LinkPool.heldSpan (q : LinkPool) (next : Seq) : Int := signedDiff q.grant next + 1

/-- The pool fields of a REALLOCATE reply (R91). -/
def State.poolView (s : State) (p : Pos) : PoolView :=
  { alloc := (s.bay p).alloc, span := (s.linkPool p).span, grant := (s.linkPool p).grant, stalled := (s.linkPool p).stalled }

/-! ### Link operations (R81, R82, R96) -/

/-- The end of a link operation: DONE with its result, and OP_DONE posted (R81). -/
def State.endLinkOp (s : State) (p : Pos) (r : LinkResult) : State :=
  (s.modLink p fun l => { l with op := { l.op with state := .done, result := some r } }).post
    { subject := .bay p, detail := .linkOpDone (s.link p).op.kind r (s.link p).op.wake }

/-- A BUSY operation is aborted: an OPEN has its timer stopped, a REALLOCATE its new allocation applied (R78, R82, R96). -/
def State.abortLinkOp (s : State) (p : Pos) : State :=
  if (s.link p).busy then
    match (s.link p).op.kind with
    | .reallocate => (s.modPool p fun q => q.applied s.next (s.bay p).alloc).endLinkOp p .aborted
    | _ => (s.modLink p fun l => { l with timer := none }).endLinkOp p .aborted
  else s

/-! ### The drain (R95) -/

/-- The drain of a stalled link is complete: the held span is at or below ALLOC. -/
def State.drained (s : State) (p : Pos) : Bool :=
  (s.linkPool p).stalled && (s.linkPool p).heldSpan s.next ≤ (s.bay p).alloc

/-- The Frame Pool's test of one link after next_release has advanced (R95). -/
def State.drainCheck (s : State) (p : Pos) : State :=
  if s.drained p then (s.modPool p fun q => q.applied s.next (s.bay p).alloc).endLinkOp p .ok else s

/-- Step 7 of a release for the Frame Pool: grants of links that are not stalled advance, then the drain checks in
ascending link number (R54, R88, R95; log entry 29). -/
def State.advanceGrants (s : State) : State :=
  allPos.foldl State.drainCheck
    { s with pool := s.pool.map fun q => if q.stalled then q else { q with grant := grantFor s.next q.span } }

/-- Step 6 of a release: every slot holding a frame for the sequence is freed (R90). -/
def State.freeSlots (s : State) (q : Seq) : State :=
  { s with pool := s.pool.map fun k => { k with frames := freeFrame q k.frames } }

/-- DRAIN_COMPLETE (R95): the Frame Pool's check of the link, where the drain is complete. -/
def execDrainComplete (link : Pos) (s : State) : Host.Outcome State Fault Refusal :=
  event (fun s => s.drainCheck link) s

end Sys2Proof.Machine
end

