-- ==== Sys2Proof/Machine/BayTable.lean ====
section
/-! DEFINITION. The Bay Table's own work: consuming frames, contact decoding, replicas, runs, the maintenance test (R5 to R20), and CONFIGURE_BAY's write (R4). -/

namespace Sys2Proof.Machine

/-! ### Currents (R6) -/

/-- A reported current in mA-ref: negated if REVERSED, multiplied by SCALE, divided by 1024 with truncation toward zero. -/
def scaled (pol : Polarity) (scale : Nat) (x : Int) : Int :=
  match pol with
  | .normal => (x * scale).tdiv 1024
  | .reversed => (-x * scale).tdiv 1024

/-- The three scaled currents of a frame for a bay. -/
def BayRecord.scaledCurrents (b : BayRecord) (f : StoredFrame) : PerPhase Int := f.currents.map (scaled b.polarity b.scale)

/-! ### Contact pairs and the replica (R7 to R10) -/

/-- The contact status a pair decodes to (R7). -/
def ContactPair.status (c : ContactPair) : ContactStatus :=
  match c.closedIndicating, c.openIndicating with
  | true, false => .closed
  | false, true => .opened
  | false, false => .travel
  | true, true => .invalid

/-- The pair of an element in the status word. -/
def StatusWord.pair (w : StatusWord) : Element → ContactPair
  | .isolatorA => w.isolatorA
  | .isolatorB => w.isolatorB
  | .breaker => w.breaker

/-- One element's consumption of a contact status (R7, R8, R9). -/
def ElementRecord.consume (debounce : Nat) (st : ContactStatus) (e : ElementRecord) : ElementRecord :=
  let moved : ElementRecord :=
    if st = .travel then { e with contact := st } else { e with contact := st, travel := 0, stuck := false }
  if st = .opened then
    if debounce ≤ e.debounce + 1 then { moved with derived := .opened, debounce := debounce }
    else { moved with debounce := e.debounce + 1 }
  else { moved with derived := .closed, debounce := 0 }

/-- The travel count reaches or passes the limit with the stuck-reported flag no (R9). -/
def ElementRecord.sticks (limit : Nat) (e : ElementRecord) : Bool :=
  e.contact == .travel && limit ≤ raise16 e.travel && !e.stuck

/-- One release's travel step of an element (R9). -/
def ElementRecord.travelStep (limit : Nat) (e : ElementRecord) : ElementRecord :=
  if e.contact = .travel then { e with travel := raise16 e.travel, stuck := e.stuck || e.sticks limit } else e

/-- The stuck notice of an element (R9). -/
def stuckDetail (e : Element) (travel : Nat) : NoticeDetail :=
  match e with
  | .breaker => .breakerStuck e travel
  | _ => .isolatorStuck e travel

/-! ### One bay at a release (R5) -/

/-- What the Bay Table hands on for a bay at a release (R5, R20). -/
structure BayHand where
  /-- The bay is present: its frame is in the pool with UNIT_OK 1. -/
  present : Bool
  /-- A frame was consumed, whatever its UNIT_OK. -/
  consumed : Bool
  /-- The scaled currents of the release, meaningful while present. -/
  currents : PerPhase Int
  bfiEdge : Bool
  tripSeen : Bool
  transferSeen : Bool
  echo : Byte
  /-- The bay was found not dead in MAINTENANCE (R17). -/
  violation : Bool
  deriving DecidableEq, Repr

/-- A bay of which nothing is handed on. -/
def BayHand.none : BayHand :=
  { present := false, consumed := false, currents := ⟨0, 0, 0⟩, bfiEdge := false, tripSeen := false, transferSeen := false
    echo := 0, violation := false }

/-- A bay's scaled currents of the release, none when it is absent or present with a failed unit. -/
def BayHand.seen (h : BayHand) : Option (PerPhase Int) := if h.present then some h.currents else Option.none

/-- Step 1 of R5: the status word is consumed (R7, R8, R20). -/
def BayRecord.consumeStatus (g : Settings) (w : StatusWord) (b : BayRecord) : BayRecord :=
  let b := b.kind.elements.foldl
    (fun b e => b.withElement e ((b.element e).consume g.openDebounce (w.pair e).status)) b
  { b with testSeen := w.testMode, bfiPrevious := w.bfi }

/-- The CONTACT_INVALID notices of a consumption (R10). -/
def BayRecord.invalidDetails (q : Seq) (w : StatusWord) (b : BayRecord) : List NoticeDetail :=
  (b.kind.elements.filter fun e => (w.pair e).status == .invalid && (b.element e).contact != .invalid).map
    fun e => .contactInvalid e q

/-- The TEST_MODE_SEEN notice of a consumption (R20). -/
def BayRecord.testDetails (w : StatusWord) (b : BayRecord) : List NoticeDetail :=
  if w.testMode != b.testSeen then [.testModeSeen w.testMode] else []

/-- Step 2 of R5: the scaled currents of a present bay replace its last currents (R6). -/
def BayRecord.storeCurrents (q : Seq) (f : StoredFrame) (b : BayRecord) : BayRecord :=
  if f.status.unitOk then { b with last := some { currents := b.scaledCurrents f, sequence := q } } else b

/-- Step 3 of R5: travel counts (R9). -/
def BayRecord.travelStep (g : Settings) (b : BayRecord) : BayRecord :=
  b.kind.elements.foldl (fun b e => b.withElement e ((b.element e).travelStep g.travelLimit)) b

/-- The stuck notices of a travel step (R9). -/
def BayRecord.stuckDetails (g : Settings) (b : BayRecord) : List NoticeDetail :=
  (b.kind.elements.filter fun e => (b.element e).sticks g.travelLimit).map
    fun e => stuckDetail e (raise16 (b.element e).travel)

/-- The missing run reaches 4 while DATA is no (R19). -/
def BayRecord.losesData (b : BayRecord) : Bool := 4 ≤ raise16 b.missingRun && !b.data

/-- The present run reaches 16 while DATA is yes (R19). -/
def BayRecord.regainsData (b : BayRecord) : Bool := 16 ≤ raise16 b.presentRun && b.data

/-- The runs of a bay that is present at release q (R18, R19). -/
def BayRecord.runPresent (q : Seq) (b : BayRecord) : BayRecord :=
  { b with presentRun := raise16 b.presentRun, missingRun := 0, lastPresent := some q
           data := if b.regainsData then false else b.data }

/-- The runs of a bay that is absent or present with a failed unit (R18, R19). -/
def BayRecord.runMissing (b : BayRecord) : BayRecord :=
  { b with missingRun := raise16 b.missingRun, presentRun := 0, data := b.data || b.losesData }

/-- Step 4 of R5: the runs of a bay that is not OUT_OF_SERVICE. -/
def BayRecord.runStep (q : Seq) (present : Bool) (b : BayRecord) : BayRecord :=
  if b.service = .outOfService then b else if present then b.runPresent q else b.runMissing

/-- The DATA notices of step 4 (R19). -/
def BayRecord.dataDetails (present : Bool) (b : BayRecord) : List NoticeDetail :=
  if b.service = .outOfService then []
  else if present then (if b.regainsData then [.dataRestored] else [])
  else if b.losesData then [.dataLost b.lastPresent] else []

/-- Step 5 of R5: the bay is MAINTENANCE and not dead (R17). -/
def BayRecord.violates (b : BayRecord) : Bool := b.service == .maintenance && !b.dead

/-- The elements of the bay whose effective replicas are CLOSED (R17). -/
def BayRecord.shutElements (b : BayRecord) : List Element := b.kind.elements.filter fun e => b.shut e

/-- What one bay's work at a release comes to: the record, the notices before and after the maintenance violation with its
cancelled orders, and the hand-off. -/
structure BayStep where
  record : BayRecord
  before : List NoticeDetail
  violation : List NoticeDetail
  after : List NoticeDetail
  hand : BayHand

/-- The work of R5 for one configured bay, with the frame the pool holds for it. -/
def BayRecord.step (g : Settings) (q : Seq) (frame : Option StoredFrame) (b0 : BayRecord) : BayStep :=
  let present := frame.any fun f => f.status.unitOk
  let b1 := match frame with
    | some f => (b0.consumeStatus g f.status).storeCurrents q f
    | none => b0
  let b2 := b1.travelStep g
  let b3 := b2.runStep q present
  let b4 := if b3.violates then { b3 with service := .inService } else b3
  { record := b4
    before :=
      (match frame with | some f => b0.invalidDetails q f.status | none => []) ++ b1.stuckDetails g ++
        (match frame with | some f => b0.testDetails f.status | none => [])
    violation := if b3.violates then [.maintenanceViolation b3.shutElements] else []
    after := b2.dataDetails present
    hand := match frame with
      | some f =>
        { present := present, consumed := true, currents := b0.scaledCurrents f, bfiEdge := f.status.bfi && !b0.bfiPrevious
          tripSeen := f.status.tripSeen, transferSeen := f.status.transferSeen, echo := f.echo, violation := b3.violates }
      | none => { BayHand.none with violation := b3.violates } }

/-! ### Configuration and service (R4, R15, R22) -/

/-- The observed fields of a bay cleared to their power-on values, as a warm restart leaves them (R22). -/
def BayRecord.clearObserved (b : BayRecord) : BayRecord :=
  { b with
    isolatorA := { ElementRecord.reset with forcing := b.isolatorA.forcing }
    isolatorB := { ElementRecord.reset with forcing := b.isolatorB.forcing }
    breaker := { ElementRecord.reset with forcing := b.breaker.forcing }
    last := none, missingRun := 0, presentRun := 0, lastPresent := none, data := false, testSeen := false, bfiPrevious := false }

/-- The record an accepted CONFIGURE_BAY writes: the configuration, fields not applicable at their power-on values, every
override and observed field cleared (R4). -/
def BayRecord.configuredAs (k : BayKind) (x : SectionNo) (u : Bus) (scale : Nat) (pol : Polarity) (alloc : Nat) : BayRecord :=
  { BayRecord.reset with
    configured := true, kind := k, scale := scale, polarity := pol, alloc := alloc
    sectionNo := if k = .sectionBay then .one else x
    bus := if k = .sectionBay then u else .a }

/-- Step 3 of R15: runs, last present sequence and DATA of a bay taken OUT_OF_SERVICE. -/
def BayRecord.leave (b : BayRecord) : BayRecord :=
  { b with missingRun := 0, presentRun := 0, lastPresent := none, data := false }

end Sys2Proof.Machine
end

