-- ==== Sys2Proof/Machine/ZoneReplica.lean ====
section
/-! DEFINITION. The Zone Replica: the partition, members, the check zone, member changes, blocked states and their notices (R23 to R42). -/

namespace Sys2Proof.Machine

/-! ### The partition (R26, R27) -/

/-- The existing bus zones, in the fixed order (R23). -/
def ZoneReplica.existing (r : ZoneReplica) : List BusZone := r.busZones.map BusZoneRecord.zone

/-- A bay is a bridge of section x (R26). -/
def BayRecord.bridges (x : SectionNo) (b : BayRecord) : Bool :=
  b.liveFeeder && b.sectionNo == x && b.shut .isolatorA && b.shut .isolatorB

/-- Section x has at least one bridge (R26). -/
def bridged (bays : Table BayRecord) (x : SectionNo) : Bool := bays.any (BayRecord.bridges x)

/-- The effective zones of one section as bus-zone sets (R26). -/
def sectionZones (bays : Table BayRecord) (x : SectionNo) : List (List BusZone) :=
  if bridged bays x then [[zoneA x, zoneB x]] else [[zoneA x], [zoneB x]]

/-- The partition of the existing bus zones, in the order of the effective zones' names (R26, R27). -/
def partitionOf (bays : Table BayRecord) (existing : List BusZone) : List (List BusZone) :=
  sectionZones bays .one ++ (if existing.contains .a2 then sectionZones bays .two else [])

/-! ### Members and signs (R28 to R32) -/

/-- The sign with which a bay enters the zone with bus-zone set zs: none when it is no member, minus when it enters with -1. -/
def BayRecord.memberSign (zs : List BusZone) (b : BayRecord) : Option Bool :=
  if b.inService then
    match b.kind with
    | .feeder =>
      if (b.shut .isolatorA && zs.contains (zoneA b.sectionNo)) || (b.shut .isolatorB && zs.contains (zoneB b.sectionNo))
      then some false else none
    | .coupler =>
      if b.shut .breaker then
        match zs.contains (zoneA b.sectionNo), zs.contains (zoneB b.sectionNo) with
        | true, false => some true
        | false, true => some false
        | _, _ => none
      else none
    | .sectionBay =>
      if b.shut .breaker then
        if zs.contains (zoneOne b.bus) then some true
        else if zs.contains (zoneTwo b.bus) then some false else none
      else none
  else none

/-- The member list of a zone, in ascending bay number (R31). -/
def membersOf (bays : Table BayRecord) (zs : List BusZone) : List Member :=
  allPos.filterMap fun p => ((bays.get p).memberSign zs).map fun m => { bay := p, minus := m }

/-- The check zone's member list: every IN_SERVICE feeder (R32). -/
def checkMembers (bays : Table BayRecord) : List Pos := bays.where BayRecord.liveFeeder

/-! ### Blocked states (R37, R38) -/

/-- The reasons of an effective zone that hold (R37). -/
def reasonsOf (r : ZoneReplica) (bays : Table BayRecord) (zs : List BusZone) (ms : List Member) : Reasons :=
  { host := (r.busZones.filter fun z => zs.contains z.zone && z.host).map BusZoneRecord.zone
    cts := (r.busZones.filter fun z => zs.contains z.zone && z.cts).map BusZoneRecord.zone
    data := (ms.filter fun m => (bays.get m.bay).data).map Member.bay
    test := (ms.filter fun m => (bays.get m.bay).testSeen).map Member.bay }

/-! ### The picture (R33, R35) -/

/-- An effective zone continues a zone of the previous picture with the same bus zones and the same members (R35); the
set of bus zones has changed when it differs from the previous picture's (log entry 25). -/
def continued (old : Option Picture) (existing zs : List BusZone) (ms : List Member) : Bool :=
  match old with
  | none => false
  | some pic =>
    pic.zones.flatMap EffZone.zones == existing && pic.zones.any fun z => z.zones == zs && z.members == ms

/-- The picture of release q recomputed from the Bay Table (R33); recomputing with unchanged inputs gives the same picture. -/
def pictureOf (r : ZoneReplica) (bays : Table BayRecord) (q : Seq) : Picture :=
  { sequence := q
    zones := (partitionOf bays r.existing).map fun zs =>
      { name := zs.headD .a1, zones := zs, members := membersOf bays zs
        changed := !continued r.picture r.existing zs (membersOf bays zs)
        reasons := reasonsOf r bays zs (membersOf bays zs) }
    check :=
      { members := checkMembers bays
        changed := match r.picture with
          | none => true
          | some pic => pic.check.members != checkMembers bays
        cts := r.checkCts
        data := (checkMembers bays).filter fun p => (bays.get p).data } }

/-- The effective zone of a picture that contains bus zone X: Z(X) (R27). -/
def Picture.zoneWith (pic : Picture) (x : BusZone) : Option EffZone := pic.zones.find? fun z => z.zones.contains x

/-- The bus-zone records' effective-zone fields after a recompute (R27). -/
def ZoneReplica.named (r : ZoneReplica) (pic : Picture) : ZoneReplica :=
  { r with busZones := r.busZones.map fun z => { z with effective := (pic.zoneWith z.zone).map EffZone.name } }

/-! ### Block notices (R40) -/

/-- The bus zones of an effective zone whose reported-blocked indicator disagrees with its state. -/
def ZoneReplica.disagreeing (r : ZoneReplica) (zs : List BusZone) (blocked : Bool) : List BusZone :=
  (r.busZones.filter fun z => zs.contains z.zone && z.reportedBlocked != blocked).map BusZoneRecord.zone

/-- The indicator set on every bus zone of an effective zone. -/
def ZoneReplica.report (r : ZoneReplica) (zs : List BusZone) (blocked : Bool) : ZoneReplica :=
  { r with busZones := r.busZones.map fun z => if zs.contains z.zone then { z with reportedBlocked := blocked } else z }

/-- R40 for one effective zone. -/
def State.reportZone (s : State) (z : EffZone) : State :=
  let changed := s.replica.disagreeing z.zones z.blocked
  if changed.isEmpty then s
  else
    State.post { s with replica := s.replica.report z.zones z.blocked }
      { subject := .busZone z.name
        detail := if z.blocked then .zoneBlocked z.name z.zones changed z.reasons
                  else .zoneUnblocked z.name z.zones changed }

/-- R40 for the check zone. -/
def State.reportCheck (s : State) (c : CheckZone) : State :=
  if s.replica.checkReported = c.blocked then s
  else
    State.post { s with replica := { s.replica with checkReported := c.blocked } }
      { subject := .nobody
        detail := if c.blocked then .checkBlocked c.cts c.data else .checkUnblocked }

/-! ### Member changes (R36) -/

/-- The zone states kept at a release: those of live zones that continue (R36). -/
def Picture.keeps (pic : Picture) (st : ZoneState) : Bool :=
  pic.zones.any fun z => z.name == st.name && z.live && !z.changed

/-- The state of changed zones, and of zones that nothing continues, is dropped; a zone without held state starts cleared (R36, R112). -/
def State.clearChanged (s : State) (pic : Picture) : State :=
  { s with
    zones := s.zones.filter pic.keeps
    check := if pic.check.changed || pic.check.members.isEmpty then none else s.check }

/-- Step 3 of a release: the picture is settled, changed zones are cleared, blocked states are derived and reported (R33 to R41). -/
def State.settlePicture (s : State) (q : Seq) : State :=
  let pic := pictureOf s.replica s.bays q
  let s := { s with replica := { s.replica.named pic with picture := some pic, recompute := false } }
  let s := s.clearChanged pic
  (pic.zones.foldl State.reportZone s).reportCheck pic.check

/-! ### CTS requests (R39) -/

/-- CTS set on bus zones. -/
def ZoneReplica.setCts (r : ZoneReplica) (zs : List BusZone) : ZoneReplica :=
  { r with busZones := r.busZones.map fun z => if zs.contains z.zone then { z with cts := true } else z }

/-- A zone of the picture with its CTS reason derived again (R39). -/
def EffZone.withCts (z : EffZone) : EffZone := { z with reasons := { z.reasons with cts := z.zones } }

/-- A picture in which the CTS reason of one zone has been added. -/
def Picture.withCts (pic : Picture) (name : BusZone) : Picture :=
  { pic with zones := pic.zones.map fun y => if y.name = name then y.withCts else y }

/-- The effective zone of that name in the picture of the last release. -/
def ZoneReplica.zoneNamed (r : ZoneReplica) (name : BusZone) : Option EffZone :=
  r.picture.bind fun pic => pic.zones.find? fun z => z.name == name

/-- Zone Supervision's request for an effective zone: CTS set, CT_SUPERVISION, the blocked state derived again and reported (R39, R126). -/
def State.requestCts (s : State) (name : BusZone) (phases : List (Phase × Nat)) : State :=
  match s.replica.zoneNamed name with
  | none => s
  | some z =>
    let r : ZoneReplica :=
      { s.replica.setCts z.zones with picture := s.replica.picture.map fun pic => pic.withCts name }
    (State.post { s with replica := r }
      { subject := .busZone name, detail := .ctSupervision (some name) z.zones phases }).reportZone z.withCts

/-- Zone Supervision's request for the check zone (R39, R127). -/
def State.requestCheckCts (s : State) (phases : List (Phase × Nat)) : State :=
  match s.replica.picture with
  | none => s
  | some pic =>
    let c : CheckZone := { pic.check with cts := true }
    let r : ZoneReplica := { s.replica with checkCts := true, picture := some { pic with check := c } }
    (State.post { s with replica := r } { subject := .nobody, detail := .ctSupervision none [] phases }).reportCheck c

end Sys2Proof.Machine
end

