-- ==== Sys2Proof/Machine/Evaluator.lean ====
section
/-! DEFINITION. The Differential Evaluator: completeness, Id and Ir, operate marks, windows, the Ir history and the check zone (R99 to R118). -/

namespace Sys2Proof.Machine

/-! ### Completeness and the two sums (R101, R102) -/

/-- Every member is present at the release (R101). -/
def complete (hands : Table BayHand) (ms : List Member) : Bool := ms.all fun m => (hands.get m.bay).present

/-- The members that are present. -/
def presentMembers (hands : Table BayHand) (ms : List Member) : List Member := ms.filter fun m => (hands.get m.bay).present

/-- A value above 2,147,483,647 is replaced by it (R102). -/
def saturate (n : Nat) : Nat := min n Config.currentLimit

/-- A member's contribution to the signed sum of a phase: its scaled current times its sign. -/
def contribution (hands : Table BayHand) (ph : Phase) (m : Member) : Int :=
  if m.minus then -((hands.get m.bay).currents.get ph) else (hands.get m.bay).currents.get ph

/-- Id of a phase over the present members (R102). -/
def idOf (hands : Table BayHand) (ms : List Member) (ph : Phase) : Nat :=
  saturate (((presentMembers hands ms).map (contribution hands ph)).foldl (· + ·) 0).natAbs

/-- Ir of a phase over the present members (R102). -/
def irOf (hands : Table BayHand) (ms : List Member) (ph : Phase) : Nat :=
  saturate (((presentMembers hands ms).map fun m => ((hands.get m.bay).currents.get ph).natAbs).foldl (· + ·) 0)

/-! ### Tests, windows and histories (R103 to R108) -/

/-- Id is at least the minimum and Id x 64 is at least the slope x Ir (R103, R108). -/
def meets (minimum slope id ir : Nat) : Bool := minimum ≤ id && slope * ir ≤ id * 64

/-- The slope in force (R103). -/
def slopeInForce (g : Settings) (c : Classifier) : Nat := if c = .external then g.slopeX else g.slope

/-- M_eff (R106). -/
def operateThreshold (g : Settings) (c : Classifier) : Nat := if c = .external then g.w else g.m

/-- A mark appended at the tail of a window of at most w marks (R105). -/
def pushMark (w : Nat) (m : Bool) (win : List Bool) : List Bool :=
  if w < (win ++ [m]).length then (win ++ [m]).tail else win ++ [m]

/-- The window count: the number of 1 marks (R99). -/
def markCount (win : List Bool) : Nat := (win.filter id).length

/-- An Ir value appended to a history of at most four (R107). -/
def pushIr (ir : Nat) (h : List Nat) : List Nat := if 4 < (h ++ [ir]).length then (h ++ [ir]).tail else h ++ [ir]

/-- The reference restraint: the head of a history of four values (R107). -/
def referenceOf (h : List Nat) : Option Nat := if h.length = 4 then h.head? else none

/-- The last results of one phase, from its mark and its window after the append (R105, R106, R108). -/
def phaseResult (threshold id ir : Nat) (normal mark : Bool) (win : List Bool) : PhaseResult :=
  { id := id, ir := ir, normal := normal, mark := mark, count := markCount win, length := win.length
    met := threshold ≤ markCount win, operating := mark && threshold ≤ markCount win }

/-- The three phases written out. -/
def perPhase {α : Type} (f : Phase → α) : PerPhase α := ⟨f .l1, f .l2, f .l3⟩

/-! ### One effective zone (R102 to R107) -/

/-- What the Evaluator hands Zone Supervision for a live effective zone (R110): its last results, the changed indication, and at a
complete release the length of each Ir history before the append with the reference restraint of a full one. -/
structure ZoneHand where
  name : BusZone
  changed : Bool
  result : ZoneResult
  historyLength : PerPhase (Option Nat)
  reference : PerPhase (Option Nat)
  deriving DecidableEq, Repr

/-- What it hands for the check zone when that has been evaluated (R110). -/
structure CheckHand where
  changed : Bool
  result : ZoneResult
  deriving DecidableEq, Repr

/-- The operate mark of a phase: 0 at an incomplete release (R103). -/
def operateMark (g : Settings) (c : Classifier) (hands : Table BayHand) (ms : List Member) (ph : Phase) : Bool :=
  complete hands ms && meets g.idmin (slopeInForce g c) (idOf hands ms ph) (irOf hands ms ph)

/-- The normal-test result of a phase (R103). -/
def normalTest (g : Settings) (hands : Table BayHand) (ms : List Member) (ph : Phase) : Bool :=
  complete hands ms && meets g.idmin g.slope (idOf hands ms ph) (irOf hands ms ph)

/-- The zone's state after its evaluation, and the hand-off. -/
def evaluateZone (g : Settings) (hands : Table BayHand) (z : EffZone) (st : ZoneState) : ZoneState × ZoneHand :=
  let ms := z.members
  let c := st.classifier.state
  let windows := perPhase fun ph => pushMark g.w (operateMark g c hands ms ph) (st.eval.windows.get ph)
  let result : ZoneResult :=
    { complete := complete hands ms
      phases := perPhase fun ph =>
        phaseResult (operateThreshold g c) (idOf hands ms ph) (irOf hands ms ph) (normalTest g hands ms ph)
          (operateMark g c hands ms ph) (windows.get ph) }
  let history :=
    if complete hands ms then perPhase fun ph => pushIr (irOf hands ms ph) (st.eval.history.get ph) else st.eval.history
  ({ st with eval := { windows := windows, history := history, last := some result } },
   { name := st.name, changed := z.changed, result := result
     historyLength := if complete hands ms then st.eval.history.map fun h => some h.length else ⟨none, none, none⟩
     reference := if complete hands ms then st.eval.history.map referenceOf else ⟨none, none, none⟩ })

/-- The state a live zone holds at the release: what it kept, or the cleared state (R99). -/
def State.zoneState (s : State) (name : BusZone) : ZoneState := (s.zones.find? fun st => st.name == name).getD (.fresh name)

/-! ### The check zone (R108, R109) -/

/-- Its members as a list with sign +1. -/
def checkMembersOf (c : CheckZone) : List Member := c.members.map fun p => { bay := p, minus := false }

/-- The check-zone mark of a phase (R108). -/
def checkMark (g : Settings) (hands : Table BayHand) (ms : List Member) (ph : Phase) : Bool :=
  complete hands ms && meets g.czIdmin g.czSlope (idOf hands ms ph) (irOf hands ms ph)

/-- The check zone's state after its evaluation, and the hand-off. -/
def evaluateCheck (g : Settings) (hands : Table BayHand) (c : CheckZone) (st : CheckState) : CheckState × CheckHand :=
  let ms := checkMembersOf c
  let windows := perPhase fun ph => pushMark g.w (checkMark g hands ms ph) (st.windows.get ph)
  let result : ZoneResult :=
    { complete := complete hands ms
      phases := perPhase fun ph =>
        phaseResult g.czM (idOf hands ms ph) (irOf hands ms ph) false (checkMark g hands ms ph) (windows.get ph) }
  ({ st with windows := windows, last := some result }, { changed := c.changed, result := result })

/-! ### The Evaluator's turn (R100) -/

/-- Every live effective zone is evaluated in the order of the names. -/
def State.evaluated (s : State) (pic : Picture) (hands : Table BayHand) : List (ZoneState × ZoneHand) :=
  (pic.zones.filter EffZone.live).map fun z => evaluateZone s.active hands z (s.zoneState z.name)

/-- The check zone is evaluated while it has a feeder (R108, R109). -/
def State.evaluatedCheck (s : State) (pic : Picture) (hands : Table BayHand) : Option (CheckState × CheckHand) :=
  if pic.check.members.isEmpty then none else some (evaluateCheck s.active hands pic.check (s.check.getD .fresh))

/-- The state after the Evaluator's turn: the zones' states in the order of the names, then the check zone's while it has a feeder. -/
def State.evaluate (s : State) (pic : Picture) (hands : Table BayHand) : State :=
  { s with
    zones := (s.evaluated pic hands).map Prod.fst
    check := (s.evaluatedCheck pic hands).map Prod.fst }

/-! ### Clearing (R112 to R114) -/

/-- Every window, history, last result, classifier, CT-supervision counter and trip flag is dropped (R113, R130, R154). -/
def State.dropEvaluation (s : State) : State := { s with zones := [], check := none }

/-- Every operate window of every zone is emptied, at a settings swap (R114). -/
def State.emptyWindows (s : State) : State :=
  { s with
    zones := s.zones.map fun st => { st with eval := { st.eval with windows := ⟨[], [], []⟩ } }
    check := s.check.map fun c => { c with windows := ⟨[], [], []⟩ } }

end Sys2Proof.Machine
end

