-- ==== Sys2Proof/Machine/ZoneSupervision.lean ====
section
/-! DEFINITION. Zone Supervision: the classifier of each zone, CT supervision, and the rows that take one step of them alone (R119 to R132). -/

namespace Sys2Proof.Machine

/-! ### The classifier (R120 to R124) -/

/-- A phase's restraint has risen by at least ONSET_STEP over its reference (R121). -/
def rises (step : Nat) (ir : Nat) (ref : Option Nat) : Bool :=
  match ref with
  | some r => r + step ≤ ir
  | none => false

/-- QUIET: the onset test, made when the history held four values (R121). -/
def quietStep (g : Settings) (h : ZoneHand) (c : ClassifierState) : ClassifierState :=
  if (h.result.phases.zip (fun r ref => rises g.onsetStep r.ir ref) h.reference).any id then
    { c with state := .onset, span := 1, onsetMarks := h.result.phases.map fun r => if r.mark then 1 else 0 }
  else c

/-- The marks of one phase suffice for INTERNAL: at least half of ONSET_SPAN, rounded up (R122). -/
def halfSpan (g : Settings) (marks : Nat) : Bool := (g.onsetSpan + 1) / 2 ≤ marks

/-- The onset mark counts after a release with these operate marks (R122). -/
def ClassifierState.marksAfter (c : ClassifierState) (marks : PerPhase Bool) : PerPhase Nat :=
  c.onsetMarks.zip (fun n m => if m then n + 1 else n) marks

/-- ONSET: a complete release with these operate marks (R122). -/
def onsetSpanStep (g : Settings) (marks : PerPhase Bool) (c : ClassifierState) : ClassifierState :=
  if g.onsetSpan ≤ c.span + 1 then
    { state := if (c.marksAfter marks).any (halfSpan g) then .internal else .external
      span := 0, onsetMarks := ⟨0, 0, 0⟩, quiet := 0
      evolving := if (c.marksAfter marks).any (halfSpan g) then c.evolving else ⟨0, 0, 0⟩ }
  else { c with span := c.span + 1, onsetMarks := c.marksAfter marks }

/-- The evolving counts after a release with these normal-test results (R123). -/
def ClassifierState.evolvingAfter (c : ClassifierState) (normal : PerPhase Bool) : PerPhase Nat :=
  c.evolving.zip (fun n m => if m then n + 1 else 0) normal

/-- An evolving count reaches ONSET_SPAN on some phase (R123). -/
def evolves (g : Settings) (normal : PerPhase Bool) (c : ClassifierState) : Bool :=
  (c.evolvingAfter normal).any fun n => g.onsetSpan ≤ n

/-- The zone taken to INTERNAL by R123. -/
def ClassifierState.evolved (c : ClassifierState) : ClassifierState :=
  { c with state := .internal, evolving := ⟨0, 0, 0⟩, quiet := 0 }

/-- The quiet count of a release at which Ir is below IRRESET on all phases, or is not (R124). -/
def ClassifierState.quietAfter (c : ClassifierState) (below : Bool) : Nat := if below then raise 4800 c.quiet else 0

/-- INTERNAL and EXTERNAL: the quiet count, and the return to QUIET (R124). -/
def returnStep (g : Settings) (below : Bool) (c : ClassifierState) : ClassifierState :=
  if g.quietSpan ≤ c.quietAfter below then { c with state := .quiet, quiet := 0, evolving := ⟨0, 0, 0⟩ }
  else { c with quiet := c.quietAfter below }

/-- EXTERNAL: the evolving counts, then the quiet count unless the zone has just become INTERNAL (R123, R124). -/
def externalStep (g : Settings) (normal : PerPhase Bool) (below : Bool) (c : ClassifierState) : ClassifierState :=
  if evolves g normal c then c.evolved else returnStep g below { c with evolving := c.evolvingAfter normal }

/-- The classifier work of one release (R120); an incomplete release leaves everything. -/
def classifierStep (g : Settings) (h : ZoneHand) (c : ClassifierState) : ClassifierState :=
  if h.result.complete then
    match c.state with
    | .quiet => quietStep g h c
    | .onset => onsetSpanStep g (h.result.phases.map PhaseResult.mark) c
    | .internal => returnStep g (h.result.phases.all fun r => r.ir < g.irreset) c
    | .external =>
      externalStep g (h.result.phases.map PhaseResult.normal) (h.result.phases.all fun r => r.ir < g.irreset) c
  else c

/-! ### CT supervision (R125 to R127) -/

/-- The phases reaching the span at a release with these standing differentials (R125). -/
def CtsState.reaching (g : Settings) (standing : PerPhase Bool) (c : CtsState) : PerPhase Bool :=
  perPhase fun ph => standing.get ph && !c.reported.get ph && g.ctsSpan ≤ c.counter.get ph + 1

/-- The counters and indications after a release with these standing differentials (R125). -/
def CtsState.step (g : Settings) (standing : PerPhase Bool) (c : CtsState) : CtsState :=
  { counter := perPhase fun ph =>
      if standing.get ph then (if c.reported.get ph then c.counter.get ph else c.counter.get ph + 1) else 0
    reported := perPhase fun ph => standing.get ph && (c.reported.get ph || (c.reaching g standing).get ph) }

/-- A standing differential: Id at least CTS_LEVEL and below the minimum of the zone (R125, R127). -/
def standingId (g : Settings) (below id : Nat) : Bool := g.ctsLevel ≤ id && id < below

/-- The phases named in a request, each with its Id (R126). -/
def namedPhases (reach : PerPhase Bool) (ids : PerPhase Nat) : List (Phase × Nat) :=
  reach.phases.map fun ph => (ph, ids.get ph)

/-! ### One zone's turn (R120) -/

/-- The state of one zone replaced. -/
def State.putZone (s : State) (st : ZoneState) : State :=
  { s with zones := s.zones.map fun y => if y.name = st.name then st else y }

/-- The CT-supervision work of an effective zone, its request included (R125, R126). -/
def State.superviseCts (s : State) (g : Settings) (st : ZoneState) (standing : PerPhase Bool) (ids : PerPhase Nat) : State :=
  let named := namedPhases (st.cts.reaching g standing) ids
  let s := s.putZone { st with cts := st.cts.step g standing }
  if named.isEmpty then s else s.requestCts st.name named

/-- Zone Supervision's work for one live effective zone (R120). -/
def State.superviseZone (g : Settings) (s : State) (h : ZoneHand) : State :=
  match s.zones.find? fun st => st.name == h.name with
  | none => s
  | some st =>
    let st := { st with classifier := classifierStep g h st.classifier }
    s.superviseCts g st
      (h.result.phases.map fun r => h.result.complete && st.classifier.state == .quiet && standingId g g.idmin r.id)
      (h.result.phases.map PhaseResult.id)

/-- Every live effective zone's classifier is QUIET; it holds at once when none is live (R127, R159). -/
def State.allQuiet (s : State) : Bool := s.zones.all fun st => st.classifier.state == .quiet

/-- The CT-supervision work of the check zone with these standing differentials (R127). -/
def State.superviseCheckCts (s : State) (g : Settings) (c : CheckState) (standing : PerPhase Bool) (ids : PerPhase Nat) : State :=
  let named := namedPhases (c.cts.reaching g standing) ids
  let s := { s with check := some { c with cts := c.cts.step g standing } }
  if named.isEmpty then s else s.requestCheckCts named

/-- Zone Supervision's work for the check zone, at a release at which it is evaluated and handed on (R127). -/
def State.superviseCheck (g : Settings) (h : Option CheckHand) (s : State) : State :=
  match s.check, h with
  | some c, some h =>
    s.superviseCheckCts g c (h.result.phases.map fun r => h.result.complete && s.allQuiet && standingId g g.czIdmin r.id)
      (h.result.phases.map PhaseResult.id)
  | _, _ => s

/-- Zone Supervision's turn, with the hand-offs of the live effective zones and of the check zone (R110, R120). -/
def State.supervise (s : State) (g : Settings) (hands : List ZoneHand) (check : Option CheckHand) : State :=
  State.superviseCheck g check (hands.foldl (State.superviseZone g) s)

/-! ### UNBLOCK_ZONE's clearing (R128) -/

/-- The CTS counters and indications of the effective zone that contains X in the picture of the last release. -/
def State.clearCtsOf (s : State) (x : BusZone) : State :=
  match (s.replica.picture.bind fun pic => pic.zoneWith x) with
  | none => s
  | some z => { s with zones := s.zones.map fun st => if st.name = z.name then { st with cts := .fresh } else st }

/-! ### The rows of Zone Supervision, each a share of a release's step 4 (log entry 3) -/

/-- The classifier of a zone that holds state changed by a step, where a condition on it holds. -/
def State.stepClassifier (s : State) (z : BusZone) (when : ClassifierState → Bool) (step : ClassifierState → ClassifierState) : State :=
  { s with zones := s.zones.map fun st =>
      if st.name = z ∧ when st.classifier = true then { st with classifier := step st.classifier } else st }

/-- SPAN_END (R122): the span count of a zone in ONSET reaches ONSET_SPAN at a complete release with these operate marks. -/
def execSpanEnd (zone : BusZone) (marks : PerPhase Bool) (s : State) : Host.Outcome State Fault Refusal :=
  event (fun s => s.stepClassifier zone (fun c => c.state == .onset && s.active.onsetSpan ≤ c.span + 1)
    (onsetSpanStep s.active marks)) s

/-- EVOLVING_FAULT (R123): a phase of an EXTERNAL zone brings its evolving count to ONSET_SPAN. -/
def execEvolvingFault (zone : BusZone) (normal : PerPhase Bool) (s : State) : Host.Outcome State Fault Refusal :=
  event (fun s => s.stepClassifier zone (fun c => c.state == .external && evolves s.active normal c) ClassifierState.evolved) s

/-- RETURN_TO_QUIET (R124): the quiet count of an INTERNAL or EXTERNAL zone reaches QUIET_SPAN. -/
def execReturnToQuiet (zone : BusZone) (s : State) : Host.Outcome State Fault Refusal :=
  event (fun s => s.stepClassifier zone
    (fun c => (c.state == .internal || c.state == .external) && s.active.quietSpan ≤ c.quietAfter true)
    (returnStep s.active true)) s

/-- CT_SUPERVISION of an effective zone: a complete quiet release with these differential currents (R125, R126). -/
def State.ctSupervisionZone (s : State) (z : BusZone) (ids : PerPhase Nat) : State :=
  match s.zones.find? fun st => st.name == z with
  | none => s
  | some st =>
    let standing := ids.map fun i => st.classifier.state == .quiet && standingId s.active s.active.idmin i
    if (st.cts.reaching s.active standing).any id then s.superviseCts s.active st standing ids else s

/-- CT_SUPERVISION of the check zone: a complete release with every zone QUIET and these differential currents (R127). -/
def State.ctSupervisionCheck (s : State) (ids : PerPhase Nat) : State :=
  match s.check with
  | none => s
  | some c =>
    let standing := ids.map fun i => s.allQuiet && standingId s.active s.active.czIdmin i
    if (c.cts.reaching s.active standing).any id then s.superviseCheckCts s.active c standing ids else s

/-- CT_SUPERVISION (R126, R127): a CTS counter reaches CTS_SPAN. -/
def execCtSupervision (zone : Option BusZone) (ids : PerPhase Nat) (s : State) : Host.Outcome State Fault Refusal :=
  event (fun s => match zone with
    | some z => s.ctSupervisionZone z ids
    | none => s.ctSupervisionCheck ids) s

end Sys2Proof.Machine
end

