-- ==== Sys2Proof/Machine/TripUnit.lean ====
section
/-! DEFINITION. The Trip Unit: latches, acknowledgement, decisions, breaker failure, back-trip, trip records and bay orders (R133 to R154). -/

namespace Sys2Proof.Machine

/-! ### Bay orders (R151 to R153) -/

/-- An order as it enters flight, its order timer at ECHO_SPAN (R152). -/
def Order.fly (g : Settings) (o : Order) : Flight := { order := o, timer := g.echoSpan }

/-- The end of a flight: the reserved order moves into flight with a fresh timer (R152). -/
def TripState.land (g : Settings) (t : TripState) : TripState :=
  { t with inFlight := t.reserved.map (Order.fly g), reserved := none }

/-- Orders of the kinds `which` holds for are taken out of both places; a reserved order left behind a cancelled in-flight order
moves into flight with a fresh timer (R153). -/
def TripState.cancelled (g : Settings) (which : OrderKind → Bool) (t : TripState) : TripState :=
  let kept := t.reserved.filter fun o => !which o.kind
  if t.inFlight.any fun f => which f.order.kind then
    { t with inFlight := kept.map (Order.fly g), reserved := none }
  else { t with reserved := kept }

/-- The orders that a cancellation takes, the in-flight order before the reserved one (R153). -/
def TripState.takenOrders (which : OrderKind → Bool) (t : TripState) : List Order :=
  ((t.inFlight.map Flight.order).toList ++ t.reserved.toList).filter fun o => which o.kind

/-- A cancellation with its ORDER_CANCELLED notices (R153). -/
def State.cancelOrders (s : State) (p : Pos) (which : OrderKind → Bool) (cause : CancelCause) : State :=
  (s.modTrip p (TripState.cancelled s.active which)).postAll
    (((s.tripState p).takenOrders which).map fun o =>
      { subject := .bay p, detail := .orderCancelled o.kind o.tag cause })

/-- The orders cancelled when a bay's SERVICE changes from one state to another without going OUT_OF_SERVICE: a TEST_TRIP when it
leaves MAINTENANCE, a RESET_UNIT when it becomes IN_SERVICE (R153). -/
def serviceCancels (before after : Service) (k : OrderKind) : Bool :=
  (k == .testTrip && before == .maintenance && after != .maintenance) ||
    (k == .resetUnit && after == .inService && before != .inService)

/-- The echo tag consumed at release q ends the flight of the order that bears it: DONE, ORDER_DONE (R152). -/
def State.completeOrder (s : State) (p : Pos) (q : Seq) (echo : Nat) : State :=
  match (s.tripState p).inFlight with
  | none => s
  | some f =>
    if f.order.tag = echo then
      (s.modTrip p (TripState.land s.active)).post
        { subject := .bay p, detail := .orderDone f.order.kind f.order.tag q }
    else s

/-- One sample boundary of an order timer; at zero the flight ends with ORDER_TIMEOUT (R152). -/
def State.tickOrder (s : State) (p : Pos) : State :=
  match (s.tripState p).inFlight with
  | none => s
  | some f =>
    if f.timer ≤ 1 then
      (s.modTrip p (TripState.land s.active)).post { subject := .bay p, detail := .orderTimeout f.order.kind f.order.tag }
    else s.modTrip p fun t => { t with inFlight := some { f with timer := f.timer - 1 } }

/-! ### Latches (R139, R140) -/

def TripState.latch (t : TripState) : LatchKind → Latch
  | .trip => t.trip
  | .transferTrip => t.transfer

def TripState.withLatch (t : TripState) (k : LatchKind) (l : Latch) : TripState :=
  match k with
  | .trip => { t with trip := l }
  | .transferTrip => { t with transfer := l }

/-- A latch as setting it at release q leaves it (R139). -/
def Latch.setAt (g : Settings) (q : Seq) : Latch := { set := true, confirmed := false, echo := some g.echoSpan, sequence := q }

/-- A latch is set at release q: a latch already set is left, a clear one is set and every order of the bay is cancelled (R139). -/
def State.setLatch (s : State) (p : Pos) (k : LatchKind) (q : Seq) : State :=
  if ((s.tripState p).latch k).set then s
  else (s.modTrip p fun t => t.withLatch k (Latch.setAt s.active q)).cancelOrders p (fun _ => true) .latch

/-- The trip latches of several bays are set, in order. -/
def State.setTrips (s : State) (ps : List Pos) (q : Seq) : State := ps.foldl (fun s p => s.setLatch p .trip q) s

/-- Confirmation by a consumed TRIP_SEEN or TRANSFER_SEEN (R140). -/
def Latch.confirm (seen : Bool) (l : Latch) : Latch :=
  if l.set && !l.confirmed && seen then { l with confirmed := true, echo := none } else l

/-- The echo timer reaches zero at the next boundary. -/
def Latch.runsOut (l : Latch) : Bool := l.echo.any fun n => n ≤ 1

/-- One sample boundary of an echo timer (R140). -/
def Latch.tick (l : Latch) : Latch := if l.runsOut then { l with echo := none } else { l with echo := l.echo.map fun n => n - 1 }

/-- One sample boundary of one latch of a bay, TRIP_UNCONFIRMED included (R140). -/
def State.tickLatch (s : State) (p : Pos) (k : LatchKind) : State :=
  (s.modTrip p fun t => t.withLatch k (t.latch k).tick).postAll
    (if ((s.tripState p).latch k).runsOut then
      [{ subject := .bay p, detail := .tripUnconfirmed k ((s.tripState p).latch k).sequence }] else [])

/-- A latch cleared, with its confirmed field and echo timer; the latch sequence stays (R141). -/
def Latch.cleared (l : Latch) : Latch := { l with set := false, confirmed := false, echo := none }

/-! ### The first part (R134) -/

/-- The Trip Unit's first part for one bay: a bay whose frame was consumed confirms latches and completes its order. -/
def State.acknowledge (q : Seq) (hands : Table BayHand) (s : State) (p : Pos) : State :=
  if (hands.get p).consumed then
    (s.modTrip p fun t =>
      { t with trip := t.trip.confirm (hands.get p).tripSeen, transfer := t.transfer.confirm (hands.get p).transferSeen }).completeOrder
        p q (hands.get p).echo.toNat
  else s

/-- The first part of R134. -/
def State.acknowledgeAll (s : State) (q : Seq) (hands : Table BayHand) : State := allPos.foldl (State.acknowledge q hands) s

/-! ### Trip flags of the zones (R138) -/

/-- A flag none of whose targets holds its trip latch is cleared (R138). -/
def State.examineFlags (s : State) : State :=
  { s with zones := s.zones.map fun z =>
      { z with flag := z.flag.filter fun ps => ps.any fun p => (s.tripState p).trip.set } }

/-! ### Trip records (R51, R147, R148) -/

/-- The mark stamp of release q (R51). -/
def Clock.stamp (c : Clock) (q : Seq) : MarkStamp :=
  { count := c.markCount, offset := signedDiff q c.atMark, stale := !c.marked || 32767 < c.sinceMark }

/-- The first id at or after `next`, from 255 to 0, that no held record bears (R148). -/
def freshId (held : List Nat) (next : Nat) : Nat :=
  (((List.range 256).map fun k => (next + k) % 256).find? fun i => !held.contains i).getD next

/-- What offering a record to the table comes to: the unit after it, the id given, the notices that follow (R148). -/
structure Offer where
  unit : TripUnit
  id : Option Nat
  follow : List Report

/-- A record is offered to the table (R148). -/
def TripUnit.offer (u : TripUnit) (record : Nat → TripRecord) (breakerFailure : Bool) (q : Seq) : Offer :=
  if u.records.length < Config.recordCapacity then
    let i := freshId (u.records.map TripRecord.id) u.nextId
    { unit := { u with records := u.records ++ [record i], nextId := (i + 1) % 256 }
      id := some i
      follow :=
        if u.records.length + 1 = Config.recordsNearlyFull then
          [{ subject := .device, detail := .recordsNearlyFull (u.records.length + 1) }] else [] }
  else
    { unit := { u with lost := raise16 u.lost }
      id := none
      follow := [{ subject := .device, detail := .recordLost breakerFailure q (raise16 u.lost) }] }

/-- A report that carries the record's id, posted with the record's notices after it (R137, R146, R148). -/
def State.record (s : State) (make : Nat → TripRecord) (breakerFailure : Bool) (q : Seq) (r : Option Nat → Report) : State :=
  let o := s.trip.offer make breakerFailure q
  State.postAll { s with trip := o.unit } (r o.id :: o.follow)

/-! ### Breaker-failure timing (R142 to R144) -/

/-- A start finds IDLE, or changes nothing (R142). -/
def TripState.startTiming (g : Settings) (c : StartCause) (t : TripState) : TripState :=
  if t.bf = .idle then { t with bf := .timing, remaining := g.bfTime, clear := 0, cause := some c } else t

/-- Timing starts on several bays. -/
def State.startAll (s : State) (ps : List Pos) (c : StartCause) : State :=
  ps.foldl (fun s p => s.modTrip p (TripState.startTiming s.active c)) s

/-- IDLE with remaining, clear count and start cause cleared. -/
def TripState.bfIdle (t : TripState) : TripState := { t with bf := .idle, remaining := 0, clear := 0, cause := none }

/-- FAILED with the start cause kept (R144). -/
def TripState.bfFails (t : TripState) : TripState := { t with bf := .failed, remaining := 0, clear := 0 }

/-- The release shows the breaker cleared: present, every current below IBF, breaker replica OPEN (R143). -/
def BayRecord.showsCleared (g : Settings) (b : BayRecord) (seen : Option (PerPhase Int)) : Bool :=
  (seen.any fun i => !flowing g.ibf i) && !b.shut .breaker

/-- The failure reasons that hold (R144). -/
def BayRecord.failureReasons (g : Settings) (b : BayRecord) (seen : Option (PerPhase Int)) : List FailureReason :=
  (if seen.isNone then [.absent] else []) ++ (if seen.any (flowing g.ibf) then [.current] else []) ++
    (if b.shut .breaker then [.breakerClosed] else [])

/-! ### Differential decisions (R135 to R137) -/

/-- The bay is connected to the zone with bus-zone set zs (R136). -/
def BayRecord.connectedTo (zs : List BusZone) (b : BayRecord) : Bool :=
  b.inService &&
    match b.kind with
    | .feeder =>
      (b.shut .isolatorA && zs.contains (zoneA b.sectionNo)) || (b.shut .isolatorB && zs.contains (zoneB b.sectionNo))
    | .coupler => zs.contains (zoneA b.sectionNo) || zs.contains (zoneB b.sectionNo)
    | .sectionBay => zs.contains (zoneOne b.bus) || zs.contains (zoneTwo b.bus)

/-- The connected bays of a zone (R136). -/
def connectedBays (bays : Table BayRecord) (zs : List BusZone) : List Pos := bays.where (BayRecord.connectedTo zs)

/-- The bays of a list whose trip latch is clear. -/
def State.unlatched (s : State) (ps : List Pos) : List Pos := ps.filter fun p => !(s.tripState p).trip.set

/-- The phases on which both zones are operating (R135). -/
def operatingOn (zone check : ZoneResult) : List Phase :=
  (zone.phases.zip (fun z c => z.operating && c.operating) check.phases).phases

/-- The set P of a zone: empty while either was not evaluated (R109, R135). -/
def State.tripPhases (s : State) (st : ZoneState) : List Phase :=
  match st.eval.last, s.check.bind CheckState.last with
  | some z, some c => operatingOn z c
  | _, _ => []

/-- What the record holds per tripped phase (R147). -/
def State.trippedPhases (s : State) (st : ZoneState) : List TrippedPhase :=
  match st.eval.last, s.check.bind CheckState.last with
  | some z, some c =>
    (operatingOn z c).map fun ph =>
      { phase := ph, id := (z.phases.get ph).id, ir := (z.phases.get ph).ir, checkId := (c.phases.get ph).id }
  | _, _ => []

/-- A decision for a zone at release q (R137). -/
def State.decideZone (s : State) (q : Seq) (z : EffZone) (st : ZoneState) : State :=
  let targets := connectedBays s.bays z.zones
  let newly := s.unlatched targets
  let latched := (s.putZone { st with flag := some targets }).setTrips newly q
  if newly.isEmpty then latched
  else
    let recorded := latched.record
      (fun i =>
        { id := i, cause := .differential st.classifier.state (s.trippedPhases st), zones := z.zones, phases := s.tripPhases st
          sequence := q, stamp := s.clock.stamp q, bays := newly })
      false q
      (fun i => { subject := .busZone z.name, detail := .tripDecision z.name z.zones (s.tripPhases st) newly q i })
    recorded.startAll newly .decision

/-- The conditions of R135 hold for a zone of the picture. -/
def State.decides (s : State) (checkBlocked : Bool) (z : EffZone) (st : ZoneState) : Bool :=
  z.live && !(s.tripPhases st).isEmpty && !z.blocked && !checkBlocked && st.flag.isNone

/-- One zone considered at release q (R135). -/
def State.considerZone (q : Seq) (checkBlocked : Bool) (s : State) (z : EffZone) : State :=
  match s.zones.find? fun st => st.name == z.name with
  | none => s
  | some st => if s.decides checkBlocked z st then s.decideZone q z st else s

/-! ### Breaker-failure initiation (R142) -/

/-- A BFI rising edge at a RUNNING release: the start, and the retrip of a bay whose trip latch is clear (R142). -/
def State.initiate (s : State) (p : Pos) (q : Seq) : State :=
  if (s.bay p).inService && (s.tripState p).bf == .idle then
    ((s.setLatch p .trip q).modTrip p (TripState.startTiming s.active .bfi)).postAll
      (if (s.tripState p).trip.set then [] else [{ subject := .bay p, detail := .tripRetrip q }])
  else s

/-! ### Back-trip and the report of a failure (R145, R146) -/

/-- The effective zones whose connected bays a back-trip takes (R145). -/
def Picture.backTripZones (pic : Picture) (p : Pos) (b : BayRecord) : List EffZone :=
  match b.kind with
  | .feeder => (pic.zones.find? fun z => z.members.any fun m => m.bay == p).toList
  | .coupler =>
    pic.zones.filter fun z => z.zones.contains (zoneA b.sectionNo) || z.zones.contains (zoneB b.sectionNo)
  | .sectionBay => pic.zones.filter fun z => z.zones.contains (zoneOne b.bus) || z.zones.contains (zoneTwo b.bus)

/-- The zones of the picture of the last release that a back-trip of bay p takes. -/
def State.backTripZones (s : State) (p : Pos) : List EffZone :=
  match s.replica.picture with
  | none => []
  | some pic => pic.backTripZones p (s.bay p)

/-- The bays connected to one of several zones, in ascending bay number, each once. -/
def connectedToAny (bays : Table BayRecord) (zs : List EffZone) : List Pos :=
  bays.where fun b => zs.any fun z => b.connectedTo z.zones

/-- The phases of a bay's currents at or above IBF (R147). -/
def flowingPhases (ibf : Nat) (seen : Option (PerPhase Int)) : List Phase :=
  match seen with
  | none => []
  | some i => (i.map fun x => decide (ibf ≤ x.natAbs)).phases

/-- The bays a back-trip newly latches: those whose trip latch it sets, and the failed feeder when its transfer-trip latch is set (R145). -/
def State.newlyBackTripped (s : State) (p : Pos) : List Pos :=
  let trips := s.unlatched (connectedToAny s.bays (s.backTripZones p))
  allPos.filter fun x =>
    trips.contains x || (x == p && (s.bay p).kind == .feeder && !(s.tripState p).transfer.set)

/-- The breaker of bay p has failed at release q with these reasons: FAILED, back-trip, record and report (R144 to R146). -/
def State.failBreaker (s : State) (p : Pos) (q : Seq) (reasons : List FailureReason) (seen : Option (PerPhase Int)) : State :=
  let zones := s.backTripZones p
  let trips := s.unlatched (connectedToAny s.bays zones)
  let newly := s.newlyBackTripped p
  let cause := (s.tripState p).cause
  let failed := s.modTrip p TripState.bfFails
  let latched := failed.setTrips trips q
  let latched := if (s.bay p).kind = .feeder then latched.setLatch p .transferTrip q else latched
  let started := latched.startAll trips .backTrip
  let report (i : Option Nat) : Report :=
    { subject := .bay p, detail := .bfFailed reasons seen cause newly q i }
  if newly.isEmpty then started.post (report none)
  else
    started.record
      (fun i =>
        { id := i, cause := .breakerFailure p reasons cause, zones := zones.flatMap EffZone.zones
          phases := flowingPhases s.active.ibf seen, sequence := q, stamp := s.clock.stamp q, bays := newly })
      true q report

/-- The timer of bay p expires at release q: the breaker is judged from that release alone (R144). -/
def State.expire (s : State) (p : Pos) (q : Seq) (seen : Option (PerPhase Int)) : State :=
  let reasons := (s.bay p).failureReasons s.active seen
  if reasons.isEmpty then s.modTrip p TripState.bfIdle else s.failBreaker p q reasons seen

/-- The clear count of a bay after a release that shows its breaker cleared, or does not (R143). -/
def State.clearAfter (s : State) (p : Pos) (seen : Option (PerPhase Int)) : Nat :=
  if (s.bay p).showsCleared s.active seen then (s.tripState p).clear + 1 else 0

/-- One release of a TIMING bay with the currents seen (R143). -/
def State.advanceBay (s : State) (p : Pos) (q : Seq) (seen : Option (PerPhase Int)) : State :=
  if 2 ≤ s.clearAfter p seen then s.modTrip p TripState.bfIdle
  else if (s.tripState p).remaining ≤ 1 then s.expire p q seen
  else s.modTrip p fun t => { t with clear := s.clearAfter p seen, remaining := t.remaining - 1 }

/-- One bay that was TIMING before the release's work began: it is still TIMING when its turn comes (R143). -/
def State.advanceTiming (q : Seq) (hands : Table BayHand) (s : State) (p : Pos) : State :=
  if (s.tripState p).timing then s.advanceBay p q (hands.get p).seen else s

/-! ### The second part (R134) -/

/-- The bays that are TIMING, in ascending bay number. -/
def State.timingBays (s : State) : List Pos := s.trip.bays.where TripState.timing

/-- Step 1 of the second part: the decisions of every live effective zone, in the order of the names. -/
def State.decideAll (s : State) (q : Seq) : State :=
  match s.replica.picture with
  | none => s
  | some pic => pic.zones.foldl (State.considerZone q pic.check.blocked) s

/-- Step 2: the starts by BFI. -/
def State.initiateAll (s : State) (q : Seq) (hands : Table BayHand) : State :=
  (hands.where BayHand.bfiEdge).foldl (fun s p => s.initiate p q) s

/-- The second part of R134; `timing` are the bays that were TIMING before the release's work began. -/
def State.tripWork (s : State) (q : Seq) (hands : Table BayHand) (timing : List Pos) : State :=
  timing.foldl (State.advanceTiming q hands) ((s.decideAll q).initiateAll q hands)

/-! ### Sample boundaries (R133) -/

/-- The echo timers of both latches and the order timer of a bay fall by one. -/
def State.tickBay (s : State) (p : Pos) : State := ((s.tickLatch p .trip).tickLatch p .transferTrip).tickOrder p

/-- Every bay's timers, in ascending bay number (log entry 4). -/
def State.tickTrips (s : State) : State := allPos.foldl State.tickBay s

/-! ### Stop, restart and leaving service (R15, R154) -/

/-- A FAILED record returns to IDLE (R154, R169). -/
def TripState.forgive (t : TripState) : TripState := if t.bf = .failed then t.bfIdle else t

/-- Step 1 of R15 for the latches and the breaker-failure record. -/
def TripState.leave (t : TripState) : TripState := { t.forgive with trip := t.trip.cleared, transfer := t.transfer.cleared }

/-- Both latches cleared and a FAILED state returned to IDLE (R141). -/
def TripState.resetTrip (t : TripState) : TripState := { t.forgive with trip := t.trip.cleared, transfer := t.transfer.cleared }

/-- A trip state after a warm restart: all of power-on but the last tag (R154). -/
def TripState.restarted (t : TripState) : TripState := { TripState.reset with lastTag := t.lastTag }

/-! ### RESET_TRIP (R141) -/

/-- The bay's trip state as replies carry it (R149). -/
def State.tripSummary (s : State) (p : Pos) : TripSummary :=
  let t := s.tripState p
  { bay := p, trip := t.trip, transfer := t.transfer, bf := t.bf, remaining := t.remaining, cause := t.cause
    inFlight := t.inFlight.map fun f => (f.order.kind, f.order.tag), reserved := t.reserved.map fun o => (o.kind, o.tag) }

/-- The bay holds a latch or a FAILED state (R141). -/
def TripState.holds (t : TripState) : Bool := t.latched || t.failed

/-- Checks 4 and 5 of R141. -/
def State.resetRefusal (s : State) (p : Pos) : Option ResultCode :=
  if (s.bay p).last.all fun l => flowing s.active.ibf l.currents then some .currentFlowing
  else if (s.tripState p).timing then some .bfRunning else none

/-- The clearing of a bay that passes (R141). -/
def State.resetBay (s : State) (p : Pos) : State := (s.modTrip p TripState.resetTrip).examineFlags

/-- The clearing of a bay that passes checks 4 and 5, in its turn (R141). -/
def State.resetIfPasses (s : State) (p : Pos) : State := if (s.resetRefusal p).isNone then s.resetBay p else s

/-- RESET_TRIP for one bay; the OK of check 3 carries the trip state too (log entry 30). -/
def State.resetOne (s : State) (n : Nat) : Answer :=
  match bayOf n with
  | none => s.answer .badValue
  | some p =>
    if (s.bay p).configured then
      if (s.tripState p).holds then
        match s.resetRefusal p with
        | some c => s.answer c
        | none => (s.resetBay p).answer .ok (.trip ((s.resetBay p).tripSummary p))
      else s.answer .ok (.trip (s.tripSummary p))
    else s.answer .notConfigured

/-- The configured bays that RESET_TRIP with ALL looks at. -/
def State.holdingBays (s : State) : List Pos := allPos.filter fun p => (s.bay p).configured && (s.tripState p).holds

/-- RESET_TRIP with ALL. -/
def State.resetAll (s : State) : Answer :=
  let reset := s.holdingBays.filter fun p => (s.resetRefusal p).isNone
  let refused := s.holdingBays.filterMap fun p => (s.resetRefusal p).map fun c => (p, c)
  (s.holdingBays.foldl State.resetIfPasses s).answer .ok (.resetAll reset refused)

/-- RESET_TRIP (R141). -/
def askResetTrip (target : Nat) (s : State) : Answer := if target = 0 then s.resetAll else s.resetOne target

/-- The command of that request. -/
def execResetTrip (target : Nat) (s : State) : Host.Outcome State Fault Refusal := request (askResetTrip target) s

/-! ### SEND_ORDER (R151) -/

/-- The argument is in the range of its kind. -/
def OrderKind.takes : OrderKind → Nat → Bool
  | .testTrip, a => 1 ≤ a && a ≤ 2400
  | .ping, a => a ≤ 65535
  | .enterTest, a => a ≤ 3600
  | .leaveTest, a => a == 0
  | .resetUnit, a => a ≤ 1

/-- The next tag: last tag plus one, or 1 after 255. -/
def nextTag (last : Nat) : Nat := if 255 ≤ last then 1 else last + 1

/-- SERVICE forbids the order (check 3). -/
def OrderKind.forbidden : OrderKind → Service → Bool
  | .testTrip, v => v != .maintenance
  | .resetUnit, v => v == .inService
  | _, _ => false

/-- An order given to a bay: into flight when the place is empty, else reserved. -/
def TripState.give (g : Settings) (o : Order) (t : TripState) : TripState :=
  if t.inFlight.isNone then { t with inFlight := some (o.fly g), lastTag := o.tag }
  else { t with reserved := some o, lastTag := o.tag }

/-- The checks of SEND_ORDER after the first, for a bay: none when they pass. -/
def State.orderRefusal (s : State) (p : Pos) (k : OrderKind) : Option ResultCode :=
  if !(s.bay p).configured then some .notConfigured
  else if k.forbidden (s.bay p).service then some .badState
  else if (s.link p).state != .active then some .linkNotActive
  else if (s.tripState p).latched then some .tripLatched
  else if (s.tripState p).inFlight.isSome && (s.tripState p).reserved.isSome then some .busy
  else none

/-- SEND_ORDER with its operands read. -/
def State.sendOrder (s : State) (p : Pos) (k : OrderKind) (a : Nat) : Answer :=
  match s.orderRefusal p k with
  | some c => s.answer c
  | none =>
    let n := nextTag (s.tripState p).lastTag
    (s.modTrip p (TripState.give s.active { kind := k, tag := n, argument := a })).answer
      (if (s.tripState p).inFlight.isNone then .sent else .reserved) (.tag n)

/-- SEND_ORDER (R151). -/
def askSendOrder (bay kind argument : Nat) (s : State) : Answer :=
  match bayOf bay, orderKindOf kind with
    | some p, some k => if k.takes argument then s.sendOrder p k argument else s.answer .badValue
    | _, _ => s.answer .badValue

/-- The command of that request. -/
def execSendOrder (bay kind argument : Nat) (s : State) : Host.Outcome State Fault Refusal := request (askSendOrder bay kind argument) s

/-! ### READ_RECORD and RELEASE_RECORD (R149, R150) -/

/-- The reply fields every READ_RECORD carries, with the record found. -/
def State.recordFields (s : State) (r : Option TripRecord) : ReplyFields :=
  .records r (s.trip.records.map TripRecord.id) s.trip.nextId s.trip.lost
    ((allPos.filter fun p => (s.bay p).configured).map s.tripSummary)

/-- READ_RECORD once its selector has been read. -/
def State.readRecord (s : State) (r : Option TripRecord) : Answer :=
  s.answer (if r.isSome then .ok else .noRecord) (s.recordFields r)

/-- READ_RECORD (R149); a selector that is neither OLDEST nor a record id is out of its list (R175, log entry 13), and with OLDEST the
record-id byte, which R181 has sent as 0, is not looked at (log entry 34). -/
def askReadRecord (selector id : Nat) (s : State) : Answer :=
  match selector with
    | 0 => s.readRecord s.trip.records.head?
    | 1 => s.readRecord (s.trip.records.find? fun r => r.id == id)
    | _ => s.answer .badValue (s.recordFields none)

/-- The command of that request. -/
def execReadRecord (selector id : Nat) (s : State) : Host.Outcome State Fault Refusal := request (askReadRecord selector id) s

/-- RELEASE_RECORD (R150). -/
def askReleaseRecord (id : Nat) (s : State) : Answer :=
    if s.trip.records.any fun r => r.id == id then
      let held := s.trip.records.filter fun r => r.id != id
      State.answer { s with trip := { s.trip with records := held } } .ok (.recordsHeld held.length)
    else s.answer .noRecord

/-- The command of that request. -/
def execReleaseRecord (id : Nat) (s : State) : Host.Outcome State Fault Refusal := request (askReleaseRecord id) s

/-! ### The rows of the Trip Unit, each a share of a release or of a sample boundary (log entry 3) -/

/-- The bay's breaker-failure timer is advanced at releases: the bay is TIMING and protection is RUNNING (R134, R143). -/
def State.advances (s : State) (p : Pos) : Bool := s.controller.protection == .running && (s.tripState p).timing

/-- BF_CLEARED (R143): the clear count of a TIMING bay whose breaker replica is OPEN reaches 2. -/
def execBfCleared (bay : Pos) (s : State) : Host.Outcome State Fault Refusal :=
  event (fun s =>
    if s.advances bay && !(s.bay bay).shut .breaker && 1 ≤ (s.tripState bay).clear then s.modTrip bay TripState.bfIdle
    else s) s

/-- BF_EXPIRY (R144): a TIMING bay's remaining reaches zero at a release at which the bay's currents are `seen`. -/
def execBfExpiry (bay : Pos) (seen : Option (PerPhase Int)) (s : State) : Host.Outcome State Fault Refusal :=
  event (fun s =>
    if s.advances bay && s.clearAfter bay seen < 2 && (s.tripState bay).remaining ≤ 1 then s.expire bay s.next seen
    else s) s

/-- TRIP_UNCONFIRMED (R140): the echo timer of a latch reaches zero. -/
def execTripUnconfirmed (bay : Pos) (latch : LatchKind) (s : State) : Host.Outcome State Fault Refusal :=
  event (fun s => if ((s.tripState bay).latch latch).runsOut then s.tickLatch bay latch else s) s

/-- ORDER_DONE (R152): the bay's consumed echo tag equals the tag in flight. -/
def execOrderDone (bay : Pos) (s : State) : Host.Outcome State Fault Refusal :=
  event (fun s => match (s.tripState bay).inFlight with
    | none => s
    | some f => s.completeOrder bay s.next f.order.tag) s

/-- ORDER_TIMEOUT (R152): the order timer reaches zero. -/
def execOrderTimeout (bay : Pos) (s : State) : Host.Outcome State Fault Refusal :=
  event (fun s => match (s.tripState bay).inFlight with
    | none => s
    | some f => if f.timer ≤ 1 then s.tickOrder bay else s) s

end Sys2Proof.Machine
end

