-- ==== Sys2Proof/Machine/SettingsStore.lean ====
section
/-! DEFINITION. The Settings Store: staging, validation, the exchange of the groups, and the decision at a block boundary (R155 to R163). -/

namespace Sys2Proof.Machine

/-! ### Validation (R155, R157) -/

/-- A value in an inclusive range. -/
def within (lo hi n : Nat) : Bool := lo ≤ n && n ≤ hi

/-- The check of one field against its own range and the fields it depends on (R155, R157). -/
def Settings.fieldValid (g : Settings) : SettingsField → Bool
  | .idmin => within 100 10000 g.idmin
  | .slope => within 16 56 g.slope
  | .slopeX => within g.slope 62 g.slopeX
  | .w => g.w == 8 || g.w == 16
  | .m => within 2 g.w g.m
  | .czIdmin => within 100 10000 g.czIdmin
  | .czSlope => within 8 48 g.czSlope
  | .czM => within 2 g.w g.czM
  | .onsetStep => within 200 20000 g.onsetStep
  | .onsetSpan => within 2 12 g.onsetSpan
  | .irreset => within 100 5000 g.irreset && g.irreset < g.onsetStep
  | .quietSpan => within 24 4800 g.quietSpan
  | .ctsLevel => within 20 2000 g.ctsLevel && g.ctsLevel < g.idmin && g.ctsLevel < g.czIdmin
  | .ctsSpan => within 240 24000 g.ctsSpan
  | .ibf => within 50 5000 g.ibf
  | .bfTime => within 24 1200 g.bfTime
  | .openDebounce => within 1 240 g.openDebounce
  | .travelLimit => within 240 48000 g.travelLimit
  | .echoSpan => within 4 240 g.echoSpan

/-- The first field that fails, in the order of R155 (R157). -/
def Settings.firstInvalid (g : Settings) : Option SettingsField :=
  (g.toList.map Prod.fst).find? fun f => !g.fieldValid f

/-- Every check passes. -/
def Settings.valid (g : Settings) : Bool := g.firstInvalid.isNone

/-! ### The exchange (R160) -/

/-- The fields whose values differ, in the order of R155 (R160). -/
def differingFields (g h : Settings) : List SettingsField :=
  ((g.toList.zip h.toList).filter fun x => x.1.2 != x.2.2).map fun x => x.1.1

/-- The store after an exchange: steps 1 and 2 of R160. -/
def SettingsStore.exchanged (t : SettingsStore) : SettingsStore :=
  { active := t.staged, staged := t.active, stagedValid := true, firstInvalid := none, switchPending := false, passed := 0
    lastReason := none }

/-- The exchange of the groups, taken whole (R160). -/
def State.exchange (s : State) (trigger : SwitchTrigger) : State :=
  (State.emptyWindows { s with settings := s.settings.exchanged }).post
    { subject := .device
      detail := .settingsSwitched trigger s.settings.passed (differingFields s.settings.staged s.settings.active) }

/-! ### The decision at a block boundary (R58, R159) -/

/-- The release of q is a block boundary (R58). -/
def boundary (q : Seq) : Bool := q.toNat % 256 == 255

/-- Why the boundary is passed over, none when the exchange is made (R159). -/
def State.passReason (s : State) : Option PassReason :=
  if s.anyLatch then some .latch else if s.allQuiet then none else some .notQuiet

/-- The boundary is passed over (R159). -/
def SettingsStore.passedOver (t : SettingsStore) (r : PassReason) : SettingsStore :=
  { t with passed := raise16 t.passed, lastReason := some r }

/-- Step 5 of the release of q, whose step 1 took the protection state `taken` (R159). -/
def State.decideBoundary (s : State) (q : Seq) (taken : Protection) : State :=
  if boundary q && s.settings.switchPending && taken == .running then
    match s.passReason with
    | none => s.exchange (.boundary q)
    | some r => { s with settings := s.settings.passedOver r }
  else s

/-! ### Requests (R156, R158, R161, R162) -/

/-- The store with a group staged and validated (R156). -/
def SettingsStore.stage (t : SettingsStore) (g : Settings) : SettingsStore :=
  { t with staged := g, stagedValid := g.valid, firstInvalid := g.firstInvalid }

/-- STAGE_SETTINGS (R156): a list that is not exactly one whole group is a body of the wrong length. -/
def askStageSettings (values : List Nat) (s : State) : Answer :=
  match settingsOf values with
    | none => s.answer .badLength
    | some g =>
      if s.settings.switchPending then s.answer .pending (.staged none s.settings.stagedValid s.settings.firstInvalid)
      else
        State.answer { s with settings := s.settings.stage g } (if g.valid then .ok else .badValue)
          (.staged g.firstInvalid g.valid g.firstInvalid)

/-- The command of that request. -/
def execStageSettings (values : List Nat) (s : State) : Host.Outcome State Fault Refusal := request (askStageSettings values) s

/-- SWITCH_SETTINGS with cancel no (R158). -/
def askSwitchSettings (s : State) : Answer :=
    if s.settings.switchPending then s.answer .pending
    else if !s.settings.stagedValid then s.answer .noStaged
    else if s.controller.protection = .running then
      State.answer { s with settings := { s.settings with switchPending := true, passed := 0, lastReason := none } } .accepted
    else (s.exchange .request).answer .ok

/-- The command of that request. -/
def execSwitchSettings (s : State) : Host.Outcome State Fault Refusal := request askSwitchSettings s

/-- A pending switch is cleared, with the passed-boundary count and the reason (R161). -/
def SettingsStore.unpend (t : SettingsStore) : SettingsStore :=
  if t.switchPending then { t with switchPending := false, passed := 0, lastReason := none } else t

/-- SWITCH_SETTINGS with cancel yes (R161). -/
def askSwitchSettingsCancel (s : State) : Answer :=
  State.answer { s with settings := s.settings.unpend } .ok (.switchPending s.settings.unpend.switchPending)

/-- The command of that request. -/
def execSwitchSettingsCancel (s : State) : Host.Outcome State Fault Refusal := request askSwitchSettingsCancel s

/-- READ_SETTINGS (R162): 0 is ACTIVE, always valid with no invalid field (log entry 8), 1 STAGED. -/
def askReadSettings (selection : Nat) (s : State) : Answer :=
  match selection with
    | 0 =>
      s.answer .ok
        (.settings s.settings.active true none s.settings.switchPending s.settings.passed s.settings.lastReason)
    | 1 =>
      s.answer .ok
        (.settings s.settings.staged s.settings.stagedValid s.settings.firstInvalid s.settings.switchPending
          s.settings.passed s.settings.lastReason)
    | _ => s.answer .badValue

/-- The command of that request. -/
def execReadSettings (selection : Nat) (s : State) : Host.Outcome State Fault Refusal := request (askReadSettings selection) s

/-- SETTINGS_SWITCHED (R159, R160): the pending switch is made at the boundary release next_release, a share of its step 5. -/
def execSettingsSwitched (s : State) : Host.Outcome State Fault Refusal :=
  event (fun s =>
    if boundary s.next && s.settings.switchPending && s.controller.protection == .running && s.passReason.isNone then
      s.exchange (.boundary s.next)
    else s) s

/-- A warm restart clears the pending switch alone (R163). -/
def SettingsStore.restarted (t : SettingsStore) : SettingsStore :=
  { t with switchPending := false, passed := 0, lastReason := none }

end Sys2Proof.Machine
end

