-- ==== Sys2Proof/Machine/Protection.lean ====
section
/-! DEFINITION. The Protection Controller's shared operations: the start and its ends, the stop, and the warm restart of every block (R164 to R171). -/

namespace Sys2Proof.Machine

/-! ### The start (R166 to R168) -/

/-- The device operation ends with a result, and OP_DONE is posted (R170). -/
def State.endStart (s : State) (r : StartResult) : State :=
  State.post { s with controller := { s.controller with op := { s.controller.op with state := .done, result := some r } } }
    { subject := .device, detail := .startDone r }

/-- STARTING is left for another protection state, with the wait timer stopped. -/
def Controller.leaveStarting (c : Controller) (p : Protection) : Controller := { c with waitTimer := none, protection := p }

/-- The start succeeds (R167). -/
def State.succeedStart (s : State) : State :=
  (State.dropEvaluation { s with controller := s.controller.leaveStarting .running }).endStart .ok

/-- STARTING and the start condition holds. -/
def State.startHolds (s : State) : Bool := s.controller.protection == .starting && s.startCondition

/-- The test of the start condition (R167). -/
def State.testStart (s : State) : State := if s.startHolds then s.succeedStart else s

/-- The conditions not met when the wait timer expires (R168). -/
def State.unmet (s : State) : StartResult := .notMet s.notActive (!s.clockMet)

/-- The wait timer reaches zero in STARTING (R168). -/
def State.failStart (s : State) : State :=
  State.endStart { s with controller := s.controller.leaveStarting .halted } s.unmet

/-- The start ends ABORTED, by a stop or a restart (R168, R171). -/
def State.abortStart (s : State) : State :=
  State.endStart { s with controller := s.controller.leaveStarting .halted } .aborted

/-- The wait timer has one SP left, in STARTING. -/
def State.startRunsOut (s : State) : Bool := s.controller.protection == .starting && s.controller.waitTimer.any fun n => n ≤ 1

/-- One sample boundary of the wait timer (R166, R168). -/
def State.tickWait (s : State) : State :=
  if s.startRunsOut then s.failStart
  else if s.controller.protection = .starting then
    { s with controller := { s.controller with waitTimer := s.controller.waitTimer.map fun n => n - 1 } }
  else s

/-- Some configured bay is a FEEDER with SERVICE IN_SERVICE (R166). -/
def State.hasFeeder (s : State) : Bool := s.bays.any fun b => b.configured && b.liveFeeder

/-! ### The stop (R169) -/

/-- RUNNING is left by STOP_PROTECTION (R113, R130, R154, R169). -/
def State.stopRunning (s : State) : State :=
  State.dropEvaluation
    { s with
      controller := { s.controller with protection := .halted }
      trip := { s.trip with bays := s.trip.bays.map TripState.forgive } }

/-- Why a stop in RUNNING is refused (R169). -/
def State.stopRefusal (s : State) : Option ResultCode :=
  if s.anyTiming then some .bfRunning else if s.anyLatch then some .tripLatched else none

/-! ### Station parameters (R165) -/

/-- The bus zones after SECTIONS has been written (R23). -/
def ZoneReplica.withSections (r : ZoneReplica) (two : Bool) : ZoneReplica :=
  if two == r.existing.contains .a2 then r
  else
    { r with
      recompute := true
      busZones :=
        if two then r.busZones ++ [.fresh .a2, .fresh .b2]
        else r.busZones.filter fun z => z.zone == .a1 || z.zone == .b1 }

/-- The bay stands where a station of one section has no place (R165). -/
def BayRecord.needsTwo (b : BayRecord) : Bool := b.configured && (b.kind == .sectionBay || b.sectionNo == .two)

/-- Every link is DOWN or DORMANT. -/
def State.allClosed (s : State) : Bool := !s.links.any fun l => l.state.transmits

/-! ### The warm restart (R171) -/

/-- Step 1: every BUSY operation ends ABORTED. -/
def State.abortAll (s : State) : State :=
  let s := allPos.foldl State.abortLinkOp s
  if s.controller.op.state = .busy then s.abortStart else s

/-- The Zone Replica after a warm restart (R42). -/
def ZoneReplica.restarted (r : ZoneReplica) : ZoneReplica :=
  { busZones := r.busZones.map fun z => .fresh z.zone, checkCts := false, checkReported := false, picture := none, recompute := false }

/-- The Protection Controller after a warm restart (R171). -/
def Controller.restarted (c : Controller) : Controller :=
  { c with protection := .halted, op := .reset, waitTimer := none, restartPending := false }

/-- The Frame Pool after a warm restart (R97). -/
def poolRestarted (bays : Table BayRecord) (next : Seq) : Table LinkPool :=
  bays.map fun b => { span := b.alloc, grant := grantFor next b.alloc, stalled := false, frames := [] }

/-- The Trip Unit after a warm restart (R154). -/
def TripUnit.restarted (u : TripUnit) : TripUnit :=
  { bays := u.bays.map TripState.restarted, records := [], nextId := 0, lost := 0 }

/-- The notice queue and ATTN after a warm restart (R171, R178, R179). -/
def Port.restarted (q : Port) : Port := { q with notices := [], lostNotices := 0, attn := false, armed := true }

/-- Steps 2 to 4 of a warm restart: every block at its restart values, next_release at the current sequence (R171). -/
def State.restartBlocks (s : State) : State :=
  { s with
    releaseUnit := { next := s.clock.current, blockCounter := 0 }
    controller := s.controller.restarted
    bays := s.bays.map BayRecord.clearObserved
    replica := s.replica.restarted
    links := .replicate .reset
    pool := poolRestarted s.bays s.clock.current
    zones := []
    check := none
    trip := s.trip.restarted
    settings := s.settings.restarted
    port := s.port.restarted }

/-- The restart of every block, taken whole (R171). -/
def State.warmRestart (s : State) : State := s.abortAll.restartBlocks

end Sys2Proof.Machine
end

