-- ==== Sys2Proof/Machine/ReleaseUnit.lean ====
section
/-! DEFINITION. The Release Unit: when next_release is released, the seven steps of a release, releases in succession, and the rows that are the Bay Table's shares of one (R52 to R58, R5). -/

namespace Sys2Proof.Machine

/-! ### When (R52) -/

/-- The Frame Pool holds the frame of every IN_SERVICE bay for next_release (R52). -/
def State.framesComplete (s : State) : Bool :=
  allPos.all fun p => !(s.bay p).inService || (findFrame s.next (s.linkPool p).frames).isSome

/-- next_release meets R52: it is not ahead of the current sequence, and it is complete in RUNNING or its deadline is reached. -/
def State.releaseDue (s : State) : Bool :=
  !ahead s.next s.clock.current &&
    ((s.controller.protection == .running && s.framesComplete) || reached s.clock.current (s.next + seqOf s.depth))

/-! ### Step 2: the Bay Table (R5, R17) -/

/-- What R5 comes to for one bay at release q, from the pool and the active settings. -/
def State.bayStep (s : State) (q : Seq) (p : Pos) : BayStep :=
  (s.bay p).step s.active q (findFrame q (s.linkPool p).frames)

/-- The hand-off of the Bay Table at release q (R5). -/
def State.hands (s : State) (q : Seq) : Table BayHand :=
  Table.build fun p => if (s.bay p).configured then (s.bayStep q p).hand else .none

/-- Reports of one bay. -/
def bayReports (p : Pos) (ds : List NoticeDetail) : List Report := ds.map fun d => { subject := .bay p, detail := d }

/-- The orders a maintenance violation cancels, right after its notice (R17, R153). -/
def State.violate (s : State) (p : Pos) : State := s.cancelOrders p (serviceCancels .maintenance .inService) .service

/-- The work of R5 for one bay, with its notices in order. -/
def State.workBay (q : Seq) (s : State) (p : Pos) : State :=
  if (s.bay p).configured then
    let r := s.bayStep q p
    let s := (s.modBay p fun _ => r.record).postAll (bayReports p (r.before ++ r.violation))
    let s := if r.hand.violation then s.violate p else s
    s.postAll (bayReports p r.after)
  else s

/-- Step 2 of a release, the start test of a violation included (R5, R167). -/
def State.workBays (s : State) (q : Seq) : State := (allPos.foldl (State.workBay q) s).testStart

/-! ### Step 4: protection (R54) -/

/-- The Evaluator, Zone Supervision and the Trip Unit act on release q, in RUNNING. -/
def State.protect (s : State) (q : Seq) (hands : Table BayHand) (timing : List Pos) : State :=
  match s.replica.picture with
  | none => s
  | some pic =>
    let supervised := (s.evaluate pic hands).supervise s.active ((s.evaluated pic hands).map Prod.snd)
      ((s.evaluatedCheck pic hands).map Prod.snd)
    supervised.tripWork q hands timing

/-! ### A release (R54) -/

/-- Step 1: the block counter (R58). -/
def State.beginRelease (s : State) : State :=
  { s with releaseUnit := { s.releaseUnit with blockCounter := s.next.toNat % 256 } }

/-- Step 7: next_release advances, and with it the grants (R88, R95). -/
def State.advanceNext (s : State) (q : Seq) : State :=
  State.advanceGrants { s with releaseUnit := { s.releaseUnit with next := q + 1 } }

/-- The release of next_release, steps 1 to 7 (R54). -/
def State.release (s : State) : State :=
  let q := s.next
  let taken := s.controller.protection
  let hands := s.hands q
  let timing := s.timingBays
  let s := ((s.beginRelease.workBays q).acknowledgeAll q hands).settlePicture q
  let s := if taken = .running then s.protect q hands timing else s
  ((s.decideBoundary q taken).freeSlots q).advanceNext q

/-- Releases in succession, at most `fuel` of them (R53). -/
def State.settleBy : Nat → State → State
  | 0, s => s
  | fuel + 1, s => if s.releaseDue then State.settleBy fuel s.release else s

/-- The test of R53: while next_release is due it is released and the new one tested. A run of due sequences cannot be longer
than the sequence numbers. -/
def State.settle (s : State) : State := s.settleBy 65536

/-! ### The rows -/

/-- RELEASE (R54): the release of next_release where it is due. -/
def execRelease (s : State) : Host.Outcome State Fault Refusal :=
  event (fun s => if s.releaseDue then s.release else s) s

/-- The element is one whose contact pair is decoded for the bay. -/
def BayRecord.decodes (b : BayRecord) (e : Element) : Bool := b.configured && b.kind.elements.contains e

/-- REPLICA_OPEN (R8): a consumed OPEN brings the open-debounce count to OPEN_DEBOUNCE; the share of a release's step 2. -/
def execReplicaOpen (bay : Pos) (element : Element) (s : State) : Host.Outcome State Fault Refusal :=
  event (fun s =>
    let e := (s.bay bay).element element
    if (s.bay bay).decodes element && e.derived == .closed && s.active.openDebounce ≤ e.debounce + 1 then
      s.modBay bay fun b => b.withElement element (e.consume s.active.openDebounce .opened)
    else s) s

/-- An element's travel count reaches TRAVEL_LIMIT (R9): the share of a release's step 2. -/
def State.stickElement (s : State) (p : Pos) (e : Element) : State :=
  if (s.bay p).decodes e && ((s.bay p).element e).sticks s.active.travelLimit then
    (s.modBay p fun b => b.withElement e ((b.element e).travelStep s.active.travelLimit)).post
      { subject := .bay p, detail := stuckDetail e (raise16 ((s.bay p).element e).travel) }
  else s

/-- ISOLATOR_STUCK (R9). -/
def execIsolatorStuck (bay : Pos) (element : Element) (s : State) : Host.Outcome State Fault Refusal :=
  event (fun s => if element = .breaker then s else s.stickElement bay element) s

/-- BREAKER_STUCK (R9). -/
def execBreakerStuck (bay : Pos) (s : State) : Host.Outcome State Fault Refusal :=
  event (fun s => s.stickElement bay .breaker) s

/-- The runs of the bay are counted (R18). -/
def BayRecord.counts (b : BayRecord) : Bool := b.configured && b.service != .outOfService

/-- DATA_LOST (R19): the bay's missing run reaches 4; the share of a release's step 2. -/
def execDataLost (bay : Pos) (s : State) : Host.Outcome State Fault Refusal :=
  event (fun s =>
    if (s.bay bay).counts && (s.bay bay).losesData then
      (s.modBay bay BayRecord.runMissing).post { subject := .bay bay, detail := .dataLost (s.bay bay).lastPresent }
    else s) s

/-- DATA_RESTORED (R19): the bay's present run reaches 16 at the release of next_release. -/
def execDataRestored (bay : Pos) (s : State) : Host.Outcome State Fault Refusal :=
  event (fun s =>
    if (s.bay bay).counts && (s.bay bay).regainsData then
      (s.modBay bay (BayRecord.runPresent s.next)).post { subject := .bay bay, detail := .dataRestored }
    else s) s

end Sys2Proof.Machine
end

