-- ==== Sys2Proof/Machine/BayLinks.lean ====
section
/-! DEFINITION. The Bay Links: bring-up, arrivals in every link state, sync loss, wake, closing, downstream frames, and the rows that name one outcome (R61 to R82). -/

namespace Sys2Proof.Machine

/-! ### Downstream frames (R62, R180) -/

/-- The downstream frame a transmitting link builds at a sample boundary (R62). -/
def State.downFrame (s : State) (p : Pos) : DownFrame :=
  let active := (s.link p).state == .active
  { address := number p, sequence := s.clock.current, grant := (s.linkPool p).grant
    trip := active && (s.tripState p).trip.set, transferTrip := active && (s.tripState p).transfer.set
    order := if active then (s.tripState p).inFlight.map Flight.order else none }

/-- Every lane takes its frame for the sample period beginning, or is idle (R61, R62). -/
def State.sendFrames (s : State) : State :=
  { s with links := Table.build fun p =>
      { s.link p with lane := if (s.link p).state.transmits then some (s.downFrame p) else none } }

/-- The number an order kind carries downstream (R180). -/
def orderNumber : Option OrderKind → Nat
  | none => 0
  | some .testTrip => 1
  | some .ping => 2
  | some .enterTest => 3
  | some .leaveTest => 4
  | some .resetUnit => 5

/-- A number in one byte, and in two bytes most significant first. -/
def byte1 (n : Nat) : List Byte := [BitVec.ofNat 8 n]
def byte2 (n : Nat) : List Byte := [BitVec.ofNat 8 (n / 256), BitVec.ofNat 8 n]

/-- Bytes 2 to 11 of a downstream frame (R180). -/
def DownFrame.content (f : DownFrame) : List Byte :=
  byte1 f.address ++ byte2 f.sequence.toNat ++ byte2 f.grant.toNat ++
    byte1 ((if f.trip then 2 else 0) + (if f.transferTrip then 1 else 0)) ++
    byte1 (orderNumber (f.order.map Order.kind)) ++ byte1 ((f.order.map Order.tag).getD 0) ++
    byte2 ((f.order.map Order.argument).getD 0)

/-- The bytes of a downstream frame on the lane: sync word, content, CRC (R180). -/
def DownFrame.bytes (f : DownFrame) : List Byte := byte2 0x4E2B ++ f.content ++ byte2 (crc16 f.content).toNat

/-! ### Link records (R66 to R75, R78) -/

/-- The bring-up timer of an operation started with extension e (R67). -/
def bringUpSpan (e : Nat) : Nat := 4800 + e * 480

/-- A bring-up under an operation starts (R66, R80). -/
def LinkRecord.opening (e : Nat) (wake : Bool) (l : LinkRecord) : LinkRecord :=
  { l with
    state := .hunt, recovery := false, wakeOption := false, activitySeen := false, extension := e, timer := some (bringUpSpan e)
    good := 0, lastGood := none, sinceGood := 0, lagMin := none, lagMax := none
    op := { kind := .openLink, state := .busy, result := none, wake := wake } }

/-- A return to HUNT (R69). -/
def LinkRecord.toHunt (l : LinkRecord) : LinkRecord := { l with state := .hunt, good := 0, lastGood := none }

/-- A good frame has been received (R65). -/
def LinkRecord.heard (q : Seq) (l : LinkRecord) : LinkRecord := { l with lastGood := some q, sinceGood := 0 }

/-- A good frame in HUNT (R68). -/
def LinkRecord.locked (q : Seq) (l : LinkRecord) : LinkRecord := { l.heard q with state := .lock, good := 1 }

/-- The frame's sequence is the last good sequence plus one (R69). -/
def LinkRecord.follows (q : Seq) (l : LinkRecord) : Bool := l.lastGood == some (q - 1)

/-- A good frame in LOCK that follows the last one (R69). -/
def LinkRecord.lockStep (q : Seq) (l : LinkRecord) : LinkRecord :=
  if 8 ≤ l.good + 1 then { l.heard q with state := .measure, good := 0, lagMin := none, lagMax := none }
  else { l.heard q with good := l.good + 1 }

/-- A good frame out of its place in LOCK or MEASURE: HUNT, last good sequence none, SP since good frame 0 (R65, R69). -/
def LinkRecord.outOfOrder (l : LinkRecord) : LinkRecord := { l.toHunt with sinceGood := 0 }

/-- The extremes of lag with one more (R70). -/
def widen (pick : Int → Int → Int) (x : Int) : Option Int → Option Int
  | none => some x
  | some y => some (pick y x)

/-- A measured frame with its lag (R70). -/
def LinkRecord.measured (q : Seq) (lag : Int) (l : LinkRecord) : LinkRecord :=
  { l.heard q with good := l.good + 1, lagMin := widen min lag l.lagMin, lagMax := widen max lag l.lagMax }

/-- ACTIVE, from a measurement that succeeded (R71, R75). -/
def LinkRecord.activated (l : LinkRecord) : LinkRecord :=
  { l with state := .active, recovery := false, timer := none, good := 0, sinceGood := 0 }

/-- DOWN, from a bring-up that failed (R72). -/
def LinkRecord.broughtDown (l : LinkRecord) : LinkRecord := { l with state := .down, timer := none, good := 0, lane := none }

/-- DOWN or DORMANT, by a request (R78). -/
def LinkRecord.closed (dormant wake : Bool) (l : LinkRecord) : LinkRecord :=
  { l with
    state := if dormant then .dormant else .down
    lane := none, recovery := false, good := 0, lastGood := none, sinceGood := 0, wakeOption := wake, activitySeen := false }

/-! ### Closing (R78) -/

/-- Every frame of a link is discarded and its slots are freed (R90). -/
def State.discardFrames (s : State) (p : Pos) : State := s.modPool p fun q => { q with frames := [] }

/-- Steps 1 to 3 of R78. -/
def State.closeLink (s : State) (p : Pos) (dormant wake : Bool) : State :=
  ((s.abortLinkOp p).discardFrames p).modLink p (LinkRecord.closed dormant wake)

/-! ### Ends of a bring-up (R71, R72, R75) -/

/-- The LINK_ACTIVE notice of a link (R71, R75). -/
def LinkRecord.activeReport (p : Pos) (l : LinkRecord) : Report :=
  { subject := .link p
    detail := .linkActive l.recovery l.lagMin l.lagMax (if l.recovery then none else some l.op.wake) }

/-- The link enters ACTIVE; under an operation the operation ends OK; the Protection Controller is told (R71, R75). -/
def State.activate (s : State) (p : Pos) : State :=
  let reported := (s.modLink p LinkRecord.activated).post ((s.link p).activeReport p)
  (if (s.link p).recovery then reported else reported.endLinkOp p .ok).testStart

/-- A bring-up under an operation fails (R72). -/
def State.failBringUp (s : State) (p : Pos) (r : LinkResult) : State := (s.modLink p LinkRecord.broughtDown).endLinkOp p r

/-- A measurement fails: the operation ends, or the recovery returns to HUNT, with the fields that R69's return leaves (R72, R75; log
entry 32). -/
def State.failMeasure (s : State) (p : Pos) (r : LinkResult) : State :=
  if (s.link p).recovery then s.modLink p LinkRecord.toHunt else s.failBringUp p r

/-! ### Arrivals (R61, R65) -/

/-- The lag of a frame at its arrival (R55). -/
def State.lag (s : State) (q : Seq) : Int := signedDiff s.clock.current q

/-- What a measured frame decides (R70). -/
inductive Verdict
  | overrun | late | succeeds | goesOn
  deriving DecidableEq, Repr

/-- The tests of R70, in order. -/
def State.verdict (s : State) (p : Pos) (q : Seq) : Verdict :=
  if ahead q (s.linkPool p).grant then .overrun
  else if (s.depth : Int) - 1 < s.lag q then .late
  else if 32 ≤ (s.link p).good + 1 then .succeeds else .goesOn

/-- A good frame measured (R70). -/
def State.measure (s : State) (p : Pos) (q : Seq) : State :=
  let m := s.modLink p (LinkRecord.measured q (s.lag q))
  match s.verdict p q with
  | .overrun => (m.countError p .overrun).failMeasure p .overrun
  | .late => (m.countError p .late).failMeasure p .lateLink
  | .succeeds => m.activate p
  | .goesOn => m

/-- The counter that keeps a good frame out of the pool in ACTIVE, none when it is stored (R73, R89). -/
def State.refusedFor (s : State) (p : Pos) (q : Seq) : Option ErrorKind :=
  if behind q s.next then some .late
  else if (findFrame q (s.linkPool p).frames).isSome then some .duplicate
  else if ahead q (s.linkPool p).grant then some .overrun
  else if (s.linkPool p).stalled && (s.bay p).alloc ≤ (s.linkPool p).frames.length then some .overrun
  else none

/-- A good frame in ACTIVE (R73). -/
def State.activeFrame (s : State) (p : Pos) (f : StoredFrame) : State :=
  let heard := s.modLink p (LinkRecord.heard f.sequence)
  match s.refusedFor p f.sequence with
  | some k => heard.countError p k
  | none => heard.modPool p fun q => { q with frames := insertFrame f q.frames }

/-- The LINK_ACTIVITY notice (R79). -/
def State.reportActivity (s : State) (p : Pos) (q : Seq) (o : WakeOutcome) : State :=
  s.post { subject := .link p, detail := .linkActivity q o }

/-- A frame received in DORMANT is the first good one of the stay and the wake option is set (R80). -/
def LinkRecord.wakes (l : LinkRecord) : Bool := !l.activitySeen && l.wakeOption

/-- A good frame in DORMANT (R79, R80). -/
def State.dormantFrame (s : State) (p : Pos) (q : Seq) : State :=
  if (s.link p).activitySeen then s
  else if !(s.link p).wakeOption then
    (s.modLink p fun l => { l with activitySeen := true }).reportActivity p q .none
  else if (s.bay p).alloc < s.depth + 1 then
    (s.modLink p fun l => { l with activitySeen := true, wakeOption := false }).reportActivity p q .belowDepth
  else (s.modLink p fun l => l.opening l.extension true).reportActivity p q .started

/-- A bad-CRC or misaddressed frame in HUNT, LOCK, MEASURE or ACTIVE: counted, dropped, and LOCK and MEASURE return to HUNT (R65). -/
def State.badFrame (s : State) (p : Pos) (k : ErrorKind) : State :=
  let counted := s.countError p k
  match (s.link p).state with
  | .lock => counted.modLink p LinkRecord.toHunt
  | .measure => counted.modLink p LinkRecord.toHunt
  | _ => counted

/-- A good frame, by the link state (R65). -/
def State.goodFrame (s : State) (p : Pos) (f : StoredFrame) : State :=
  match (s.link p).state with
  | .down => s
  | .dormant => s.dormantFrame p f.sequence
  | .hunt => s.modLink p (LinkRecord.locked f.sequence)
  | .lock =>
    if (s.link p).follows f.sequence then s.modLink p (LinkRecord.lockStep f.sequence) else s.modLink p LinkRecord.outOfOrder
  | .measure => if (s.link p).follows f.sequence then s.measure p f.sequence else s.modLink p LinkRecord.outOfOrder
  | .active => s.activeFrame p f

/-- An arrival at a link (R61, R65): nothing is received in DOWN, and in DORMANT a bad frame is dropped and counted nowhere. -/
def State.arrive (s : State) (p : Pos) (bytes : List Byte) : State :=
  match classify p bytes with
  | .good f => s.goodFrame p f
  | .badCrc => if (s.link p).state.transmits then s.badFrame p .crc else s
  | .misaddressed => if (s.link p).state.transmits then s.badFrame p .address else s

/-- The arrival stores the frame of next_release (R53, R89). -/
def State.storesNext (s : State) (p : Pos) (bytes : List Byte) : Bool :=
  match classify p bytes with
  | .good f => (s.link p).state == .active && f.sequence == s.next && (s.refusedFor p f.sequence).isNone
  | _ => false

/-- The Release Unit's test after an event that may have changed the protection state (R53). -/
def State.settleAfter (before after : State) : State :=
  if after.controller.protection = before.controller.protection then after else after.settle

/-- An arrival taken whole, with the releases it brings about (R53, R61). -/
def State.arrival (s : State) (p : Pos) (bytes : List Byte) : State :=
  if s.storesNext p bytes then (s.arrive p bytes).settle else State.settleAfter s (s.arrive p bytes)

/-- FRAME_ARRIVAL (R61). -/
def execFrameArrival (link : Pos) (bytes : List Byte) (s : State) : Host.Outcome State Fault Refusal :=
  event (fun s => s.arrival link bytes) s

/-! ### The rows that name one outcome of an arrival (log entry 3) -/

/-- The arrival is a waking frame (R80). -/
def State.isWaking (s : State) (p : Pos) (bytes : List Byte) : Bool :=
  match classify p bytes with
  | .good _ => (s.link p).state == .dormant && (s.link p).wakes
  | _ => false

/-- The arrival is measured, with this verdict (R70). -/
def State.isMeasured (s : State) (p : Pos) (bytes : List Byte) (test : Verdict → Bool) : Bool :=
  match classify p bytes with
  | .good f => (s.link p).state == .measure && (s.link p).follows f.sequence && test (s.verdict p f.sequence)
  | _ => false

/-- WAKE_BRING_UP (R80). -/
def execWakeBringUp (link : Pos) (bytes : List Byte) (s : State) : Host.Outcome State Fault Refusal :=
  event (fun s => if s.isWaking link bytes then s.arrival link bytes else s) s

/-- LINK_ACTIVE (R71): the measurement of a bring-up under an operation succeeds. -/
def execLinkActive (link : Pos) (bytes : List Byte) (s : State) : Host.Outcome State Fault Refusal :=
  event (fun s =>
    if s.isMeasured link bytes (· == .succeeds) && !(s.link link).recovery then s.arrival link bytes else s) s

/-- RECOVERY_ACTIVE (R75): the measurement of a recovery succeeds. -/
def execRecoveryActive (link : Pos) (bytes : List Byte) (s : State) : Host.Outcome State Fault Refusal :=
  event (fun s =>
    if s.isMeasured link bytes (· == .succeeds) && (s.link link).recovery then s.arrival link bytes else s) s

/-- BRING_UP_FAILED (R72): the measurement of a bring-up under an operation fails. -/
def execBringUpFailed (link : Pos) (bytes : List Byte) (s : State) : Host.Outcome State Fault Refusal :=
  event (fun s =>
    if s.isMeasured link bytes (fun v => v == .overrun || v == .late) && !(s.link link).recovery then s.arrival link bytes
    else s) s

/-! ### Sample boundaries (R65, R67, R69, R74) -/

/-- SP since good frame rises by one (R64). -/
def LinkRecord.age (l : LinkRecord) : LinkRecord := { l with sinceGood := raise16 l.sinceGood }

/-- SP since good frame reaches 16 at the next boundary. -/
def LinkRecord.goesSilent (l : LinkRecord) : Bool := 16 ≤ raise16 l.sinceGood

/-- The boundary at which LOCK or MEASURE returns to HUNT (R69, R70). -/
def State.timeLock (s : State) (p : Pos) : State := s.modLink p fun l => l.age.toHunt

/-- Sync loss (R74): SYNC_LOSS counted, LINK_LOST posted unless suppressed (R77), HUNT with recovery yes. -/
def State.loseSync (s : State) (p : Pos) : State :=
  let counted := (s.modLink p LinkRecord.age).countError p .syncLoss
  let reported :=
    if (s.bay p).service = .maintenance then counted
    else counted.post { subject := .link p, detail := .linkLost (s.link p).lastGood }
  reported.modLink p fun l => { l.toHunt with recovery := true }

/-- The bring-up timer has one SP left. -/
def LinkRecord.runsOut (l : LinkRecord) : Bool := l.state.bringingUp && l.timer.any fun n => n ≤ 1

/-- One sample boundary of the bring-up timer (R67, R72). -/
def State.tickTimer (s : State) (p : Pos) : State :=
  if (s.link p).runsOut then s.failBringUp p .timeout
  else s.modLink p fun l => { l with timer := l.timer.map fun n => n - 1 }

/-- One sample boundary of a link (R65): in LOCK and MEASURE the silence of R69 first, then the bring-up timer (log entry 27). -/
def State.tickLink (s : State) (p : Pos) : State :=
  match (s.link p).state with
  | .down => s
  | .dormant => s
  | .hunt => (s.modLink p LinkRecord.age).tickTimer p
  | .lock => (if (s.link p).goesSilent then s.timeLock p else s.modLink p LinkRecord.age).tickTimer p
  | .measure => (if (s.link p).goesSilent then s.timeLock p else s.modLink p LinkRecord.age).tickTimer p
  | .active => if (s.link p).goesSilent then s.loseSync p else s.modLink p LinkRecord.age

/-- Every link, in ascending number (log entry 4). -/
def State.tickLinks (s : State) : State := allPos.foldl State.tickLink s

/-- BRING_UP_TIMEOUT (R72). -/
def execBringUpTimeout (link : Pos) (s : State) : Host.Outcome State Fault Refusal :=
  event (fun s => if (s.link link).runsOut then s.failBringUp link .timeout else s) s

/-- LOCK_TIMEOUT (R69): SP since good frame reaches 16 in LOCK or MEASURE. -/
def execLockTimeout (link : Pos) (s : State) : Host.Outcome State Fault Refusal :=
  event (fun s =>
    if ((s.link link).state == .lock || (s.link link).state == .measure) && (s.link link).goesSilent then s.timeLock link
    else s) s

/-- LINK_LOST (R74): SP since good frame reaches 16 in ACTIVE. -/
def execLinkLost (link : Pos) (s : State) : Host.Outcome State Fault Refusal :=
  event (fun s => if (s.link link).state == .active && (s.link link).goesSilent then s.loseSync link else s) s

/-! ### Requests of the links (R66, R78, R83) -/

/-- OPEN_LINK (R66). -/
def State.openLink (s : State) (p : Pos) (e : Nat) : Answer :=
  if !(s.bay p).configured then s.answer .notConfigured
  else if (s.link p).busy then s.answer .busy
  else if (s.link p).state.transmits then s.answer .badState
  else if (s.bay p).alloc < s.depth + 1 then s.answer .belowDepth
  else (s.modLink p (LinkRecord.opening e false)).answer .accepted

def askOpenLink (bay extension : Nat) (s : State) : Answer :=
  match bayOf bay with
    | some p => if extension ≤ 255 then s.openLink p extension else s.answer .badValue
    | none => s.answer .badValue

/-- The command of that request. -/
def execOpenLink (bay extension : Nat) (s : State) : Host.Outcome State Fault Refusal := request (askOpenLink bay extension) s

/-- RUNNING or STARTING (R78). -/
def Protection.onDuty : Protection → Bool
  | .halted => false
  | .starting => true
  | .running => true

/-- CLOSE_LINK with its operands read (R78). -/
def State.closeRequest (s : State) (p : Pos) (dormant wake : Bool) : Answer :=
  if (s.bay p).inService && s.controller.protection.onDuty then s.answer .badState
  else if dormant && !(s.bay p).configured then s.answer .notConfigured
  else (s.closeLink p dormant wake).answer .ok

/-- CLOSE_LINK (R78). -/
def askCloseLink (bay dormant wake : Nat) (s : State) : Answer :=
  match bayOf bay, yesNo dormant, yesNo wake with
    | some p, some d, some w => if w && !d then s.answer .badValue else s.closeRequest p d w
    | _, _, _ => s.answer .badValue

/-- The command of that request. -/
def execCloseLink (bay dormant wake : Nat) (s : State) : Host.Outcome State Fault Refusal := request (askCloseLink bay dormant wake) s

/-- The reply fields of READ_LINK (R83). -/
def State.linkFields (s : State) (p : Pos) : ReplyFields :=
  .link (s.link p) ((s.bay p).service == .maintenance) (s.poolView p) (s.linkPool p).frames.length

/-- READ_LINK (R83). -/
def askReadLink (bay clear : Nat) (s : State) : Answer :=
  match bayOf bay, yesNo clear with
    | some p, some c =>
      (if c then s.modLink p fun l => { l with errors := .zero } else s).answer .ok (s.linkFields p)
    | _, _ => s.answer .badValue

/-- The command of that request. -/
def execReadLink (bay clear : Nat) (s : State) : Host.Outcome State Fault Refusal := request (askReadLink bay clear) s

/-! ### REALLOCATE (R91 to R94) -/

/-- The reply fields of REALLOCATE for a bay (R91). -/
def State.poolFields (s : State) (p : Pos) : ReplyFields := .pool (s.poolView p) (freeBudget s.bays)

/-- An answer of REALLOCATE, with the pool fields as they stand after it. -/
def State.answerPool (s : State) (p : Pos) (c : ResultCode) : Answer := s.answer c (s.poolFields p)

/-- ALLOC takes a new value. -/
def State.setAlloc (s : State) (p : Pos) (a : Nat) : State := s.modBay p fun b => { b with alloc := a }

/-- The new allocation applied at once (R92, R93). -/
def State.applyAlloc (s : State) (p : Pos) (a : Nat) : State := (s.setAlloc p a).modPool p fun q => q.applied s.next a

/-- A shrink of an open link begins: the grant is held still while it drains (R94). -/
def State.beginShrink (s : State) (p : Pos) (a : Nat) : State :=
  ((s.setAlloc p a).modPool p fun q => { q with stalled := true }).modLink p fun l =>
    { l with op := { kind := .reallocate, state := .busy, result := none, wake := false } }

/-- REALLOCATE for a bay, checks 2 to 7 in order (R91). -/
def State.reallocate (s : State) (p : Pos) (a : Nat) : Answer :=
  if !(s.bay p).configured then s.answerPool p .notConfigured
  else if (s.link p).busy then s.answerPool p .busy
  else if a < s.depth + 1 then s.answerPool p .belowDepth
  else if a = (s.bay p).alloc then s.answerPool p .ok
  else if (s.bay p).alloc < a then
    if freeBudget s.bays + (s.bay p).alloc < a then s.answerPool p .noPool else (s.applyAlloc p a).answerPool p .ok
  else if !(s.link p).state.transmits then (s.applyAlloc p a).answerPool p .ok
  else if a < (s.linkPool p).frames.length then s.answerPool p .badState
  else (s.beginShrink p a).answerPool p .accepted

/-- REALLOCATE (R91); about a bay number that is no bay the reply's pool fields have no stated value (log entry 9). -/
def askReallocate (bay alloc : Nat) (s : State) : Answer :=
  match bayOf bay with
    | none => s.answer .badValue (.poolOfNoBay bay (freeBudget s.bays))
    | some p => if 64 < alloc then s.answerPool p .badValue else s.reallocate p alloc

/-- The command of that request. -/
def execReallocate (bay alloc : Nat) (s : State) : Host.Outcome State Fault Refusal := request (askReallocate bay alloc) s

end Sys2Proof.Machine
end

