-- ==== Sys2Proof/Machine/BayRequests.lean ====
section
/-! DEFINITION. The Bay Table's requests: CONFIGURE_BAY, SET_SERVICE, OVERRIDE, READ_BAY (R3, R4, R11, R14 to R16, R21). -/

namespace Sys2Proof.Machine

/-- BAD_VALUE naming a field. -/
def State.badField (s : State) (f : FieldName) : Answer := s.answer .badValue (.field f)

/-! ### CONFIGURE_BAY (R3, R4) -/

/-- The place fields as read for a kind: SECTION for a FEEDER or COUPLER, BUS for a SECTION bay, the other at its power-on value;
the field named when one is outside its list (R2, R3). -/
def placeOf (k : BayKind) (sectionNo bus : Nat) : Except FieldName (SectionNo × Bus) :=
  match k with
  | .sectionBay =>
    match busOf bus with
    | some u => .ok (.one, u)
    | none => .error .bus
  | _ =>
    match sectionOf sectionNo with
    | some x => .ok (x, .a)
    | none => .error .sectionNo

/-- Another configured bay already has the place: a coupler of the same section, or a section bay on the same bus (R3). -/
def BayRecord.occupies (k : BayKind) (x : SectionNo) (u : Bus) (b : BayRecord) : Bool :=
  b.configured && b.kind == k &&
    match k with
    | .feeder => false
    | .coupler => b.sectionNo == x
    | .sectionBay => b.bus == u

/-- The bay that conflicts with the place, in ascending bay number (R3). -/
def State.occupant (s : State) (p : Pos) (k : BayKind) (x : SectionNo) (u : Bus) : Option Pos :=
  allPos.find? fun o => o != p && (s.bay o).occupies k x u

/-- A station of one section has no such place (R3). -/
def placeNeedsTwo (k : BayKind) (x : SectionNo) : Bool := k == .sectionBay || x == .two

/-- The sum of ALLOC over every other configured bay (R3). -/
def State.otherAllocs (s : State) (p : Pos) : Nat := budgetUsed (s.bays.modify p fun b => { b with configured := false })

/-- An accepted CONFIGURE_BAY (R4, R88). -/
def State.configured (s : State) (p : Pos) (k : BayKind) (x : SectionNo) (u : Bus) (scale : Nat) (pol : Polarity) (alloc : Nat) : State :=
  (s.modBay p fun _ => BayRecord.configuredAs k x u scale pol alloc).modPool p fun q => q.applied s.next alloc

/-- CONFIGURE_BAY once KIND, POLARITY and the place have been read: checks 2 to 8 (R3); of SCALE and ALLOC both out
of range step 5 names SCALE (log entry 15). -/
def State.configure (s : State) (p : Pos) (k : BayKind) (x : SectionNo) (u : Bus) (scale : Nat) (pol : Polarity) (alloc : Nat) : Answer :=
  if s.controller.protection = .starting then s.answer .badState
  else if (s.bay p).service ≠ .outOfService then s.answer .badState
  else if (s.link p).state ≠ .down then s.answer .badState
  else if scale = 0 ∨ 16384 < scale then s.badField .scale
  else if 64 < alloc then s.badField .alloc
  else if alloc < s.depth + 1 then s.answer .belowDepth
  else if placeNeedsTwo k x && !s.controller.station.twoSections then s.answer .conflict (.conflicting none)
  else if (s.occupant p k x u).isSome then s.answer .conflict (.conflicting (s.occupant p k x u))
  else if Config.slotCount < s.otherAllocs p + alloc then
    s.answer .noPool (.freeBudget (Config.slotCount - s.otherAllocs p))
  else (s.configured p k x u scale pol alloc).answer .ok

/-- CONFIGURE_BAY (R3). -/
def askConfigureBay (bay kind sectionNo bus scale polarity alloc : Nat) (s : State) : Answer :=
  match bayOf bay, kindOf kind, polarityOf polarity with
    | none, _, _ => s.badField .bayNumber
    | some _, none, _ => s.badField .kind
    | some _, some _, none => s.badField .polarity
    | some p, some k, some pol =>
      match placeOf k sectionNo bus with
      | .error f => s.badField f
      | .ok (x, u) => s.configure p k x u scale pol alloc

/-- The command of that request. -/
def execConfigureBay (bay kind sectionNo bus scale polarity alloc : Nat) (s : State) : Host.Outcome State Fault Refusal := request (askConfigureBay bay kind sectionNo bus scale polarity alloc) s

/-! ### SET_SERVICE (R14 to R16) -/

/-- Steps 1 to 3 of R15. -/
def State.leaveService (s : State) (p : Pos) : State :=
  let unlatched := ((s.modTrip p TripState.leave).examineFlags).cancelOrders p (fun _ => true) .service
  let closed := (unlatched.closeLink p false false).modLink p fun l => { l with errors := .zero }
  closed.modBay p BayRecord.leave

/-- A change of SERVICE with its effects (R15, R16, R34, R153). -/
def State.changeService (s : State) (p : Pos) (target : Service) : State :=
  let moved := s.modBay p fun b => { b with service := target }
  let done :=
    if target = .outOfService then moved.leaveService p
    else moved.cancelOrders p (serviceCancels (s.bay p).service target) .service
  { done with replica := { done.replica with recompute := true } }

/-- The set of IN_SERVICE bays changes (R53). -/
def dutyChanges (before after : Service) : Bool := before == .inService || after == .inService

/-- A change of SERVICE, with the releases it brings about (R53). -/
def State.moveService (s : State) (p : Pos) (target : Service) : State :=
  if dutyChanges (s.bay p).service target then (s.changeService p target).settle else s.changeService p target

/-- SET_SERVICE with its operands read: checks 2 to 6 (R14). -/
def State.setService (s : State) (p : Pos) (target : Service) : Answer :=
  if !(s.bay p).configured then s.answer .notConfigured
  else if s.controller.protection = .starting then s.answer .badState
  else if target = (s.bay p).service then s.answer .ok
  else if !(s.bay p).dead then s.answer .notDead
  else if target = .outOfService ∧ (s.tripState p).timing then s.answer .bfRunning
  else (s.moveService p target).answer .ok

/-- SET_SERVICE (R14). -/
def askSetService (bay target : Nat) (s : State) : Answer :=
  match bayOf bay, serviceOf target with
    | some p, some v => s.setService p v
    | _, _ => s.answer .badValue

/-- The command of that request. -/
def execSetService (bay target : Nat) (s : State) : Host.Outcome State Fault Refusal := request (askSetService bay target) s

/-! ### OVERRIDE (R11) -/

/-- The bay record with an override in force. -/
def BayRecord.forced (e : Element) (f : Forcing) (b : BayRecord) : BayRecord :=
  b.withElement e { b.element e with forcing := f }

/-- An accepted OVERRIDE: the picture is marked when it changes an effective replica of an IN_SERVICE bay (R34). -/
def State.overridden (s : State) (p : Pos) (e : Element) (f : Forcing) : State :=
  let b := (s.bay p).forced e f
  let marks := (s.bay p).inService && b.effective e != (s.bay p).effective e
  let s := s.modBay p fun _ => b
  { s with replica := { s.replica with recompute := s.replica.recompute || marks } }

/-- OVERRIDE (R11); an element outside the three is one that may not be overridden. -/
def askOverride (bay element value : Nat) (s : State) : Answer :=
  match bayOf bay, forcingOf value with
    | some p, some f =>
      if !(s.bay p).configured then s.answer .notConfigured
      else match elementOf element with
        | none => s.answer .badValue (.element element)
        | some e =>
          if (s.bay p).kind.overridable e then
            (s.overridden p e f).answer .ok (.replica (((s.overridden p e f).bay p).effective e))
          else s.answer .badValue (.element element)
    | _, _ => s.answer .badValue

/-- The command of that request. -/
def execOverride (bay element value : Nat) (s : State) : Host.Outcome State Fault Refusal := request (askOverride bay element value) s

/-! ### READ_BAY (R21) -/

/-- The reply fields of READ_BAY. -/
def State.bayFields (s : State) (p : Pos) : ReplyFields :=
  let b := s.bay p
  .bay p b (b.effective .isolatorA) (b.effective .isolatorB) (b.effective .breaker) b.dead

/-- READ_BAY (R21). -/
def askReadBay (bay : Nat) (s : State) : Answer :=
  match bayOf bay with
    | some p => s.answer .ok (s.bayFields p)
    | none => s.answer .badValue

/-- The command of that request. -/
def execReadBay (bay : Nat) (s : State) : Host.Outcome State Fault Refusal := request (askReadBay bay) s

end Sys2Proof.Machine
end

