-- ==== Sys2Proof/Machine/ZoneRequests.lean ====
section
/-! DEFINITION. The requests about zones: BLOCK_ZONE, UNBLOCK_ZONE, READ_ZONE (R24, R25, R115, R116, R128). -/

namespace Sys2Proof.Machine

/-! ### The list of bus zones (R24, R25) -/

/-- The names of a list, none when it holds more than four (log entry 13) or one outside the four (R24, R25). -/
def zoneNames (zs : List Nat) : Option (List BusZone) := if 4 < zs.length then none else readAll zoneOf zs

/-- The first name of the list, in its own order, that is no bus zone of the station (log entry 26). -/
def ZoneReplica.missing (r : ZoneReplica) (zs : List BusZone) : Option BusZone := zs.find? fun z => !r.existing.contains z

/-- The reply fields of BLOCK_ZONE and UNBLOCK_ZONE. -/
def State.flagFields (s : State) (pending : Bool) : ReplyFields :=
  .zoneFlags (s.replica.busZones.map fun z => (z.zone, z.host, z.cts)) s.replica.checkCts pending

/-- The picture is marked for recompute where a flag has changed (R34). -/
def ZoneReplica.marked (r : ZoneReplica) (changed : Bool) : ZoneReplica := { r with recompute := r.recompute || changed }

/-! ### BLOCK_ZONE (R24) -/

/-- HOST set on every bus zone of a list. -/
def ZoneReplica.blockHost (r : ZoneReplica) (zs : List BusZone) : ZoneReplica :=
  { r with busZones := r.busZones.map fun z => if zs.contains z.zone then { z with host := true } else z }

/-- At least one flag of the list was clear. -/
def ZoneReplica.someClear (r : ZoneReplica) (zs : List BusZone) : Bool := r.busZones.any fun z => zs.contains z.zone && !z.host

/-- BLOCK_ZONE for bus zones that exist. -/
def State.blockZones (s : State) (zs : List BusZone) : State :=
  { s with replica := (s.replica.blockHost zs).marked (s.replica.someClear zs) }

/-- BLOCK_ZONE (R24); a list of more than four names is refused before any bus zone is named (log entry 33). -/
def askBlockZone (zones : List Nat) (s : State) : Answer :=
    if zones.isEmpty then s.answer .badValue
    else match zoneNames zones with
      | none => s.answer .badValue
      | some zs =>
        match s.replica.missing zs with
        | some z => s.answer .badValue (.zone z)
        | none => (s.blockZones zs).answer .ok ((s.blockZones zs).flagFields (s.replica.someClear zs))

/-- The command of that request. -/
def execBlockZone (zones : List Nat) (s : State) : Host.Outcome State Fault Refusal := request (askBlockZone zones) s

/-! ### UNBLOCK_ZONE (R25, R128) -/

/-- HOST and CTS cleared on every bus zone of a list, and the check zone's CTS where asked. -/
def ZoneReplica.unblock (r : ZoneReplica) (zs : List BusZone) (check : Bool) : ZoneReplica :=
  { r with
    busZones := r.busZones.map fun z => if zs.contains z.zone then { z with host := false, cts := false } else z
    checkCts := r.checkCts && !check }

/-- At least one flag that the request clears was set. -/
def ZoneReplica.someSet (r : ZoneReplica) (zs : List BusZone) (check : Bool) : Bool :=
  (r.busZones.any fun z => zs.contains z.zone && (z.host || z.cts)) || (check && r.checkCts)

/-- The bus zones of a list whose CTS flag is set. -/
def ZoneReplica.ctsSet (r : ZoneReplica) (zs : List BusZone) : List BusZone :=
  (r.busZones.filter fun z => zs.contains z.zone && z.cts).map BusZoneRecord.zone

/-- Zone Supervision's clearing of the check zone's counters (R128). -/
def State.clearCheckCts (s : State) : State := { s with check := s.check.map fun c => { c with cts := .fresh } }

/-- UNBLOCK_ZONE for bus zones that exist. -/
def State.unblockZones (s : State) (zs : List BusZone) (check : Bool) : State :=
  let cleared := (s.replica.ctsSet zs).foldl State.clearCtsOf s
  let cleared := if check && s.replica.checkCts then cleared.clearCheckCts else cleared
  { cleared with replica := (s.replica.unblock zs check).marked (s.replica.someSet zs check) }

/-- UNBLOCK_ZONE (R25); a CHECK above 1 is refused before the list is looked at, and a list of more than four names before any bus
zone is named (log entry 33). -/
def askUnblockZone (zones : List Nat) (check : Nat) (s : State) : Answer :=
  match yesNo check with
    | none => s.answer .badValue
    | some c =>
      if zones.isEmpty && !c then s.answer .badValue
      else match zoneNames zones with
        | none => s.answer .badValue
        | some zs =>
          match s.replica.missing zs with
          | some z => s.answer .badValue (.zone z)
          | none => (s.unblockZones zs c).answer .ok ((s.unblockZones zs c).flagFields (s.replica.someSet zs c))

/-- The command of that request. -/
def execUnblockZone (zones : List Nat) (check : Nat) (s : State) : Host.Outcome State Fault Refusal := request (askUnblockZone zones check) s

/-! ### READ_ZONE (R115, R116) -/

/-- The last results as READ_ZONE shows them: the window count and length are those of the windows as they stand, so a window that a
swap has emptied shows it (R118); the rest is kept from the last release (R105, R114). -/
def ZoneResult.shown (windows : PerPhase (List Bool)) (r : ZoneResult) : ZoneResult :=
  { r with phases := r.phases.zip (fun x win => { x with count := markCount win, length := win.length }) windows }

/-- An effective zone's entry, with the blocked state and reasons of the last release (log entry 28); a zone without held state reads QUIET with its flag clear. -/
def State.zoneEntry (s : State) (z : EffZone) : ZoneEntry :=
  let st := s.zoneState z.name
  { zone := z, live := z.live, blocked := z.blocked, classifier := st.classifier.state
    slope := slopeInForce s.active st.classifier.state, threshold := operateThreshold s.active st.classifier.state
    result := st.eval.last.map (ZoneResult.shown st.eval.windows), historyLength := st.eval.history.map List.length
    flag := st.flag.isSome }

/-- The check zone's entry. -/
def State.checkEntry (s : State) (c : CheckZone) : CheckEntry :=
  { zone := c, live := !c.members.isEmpty, blocked := c.blocked, result := s.check.bind fun k => k.last.map (ZoneResult.shown k.windows) }

/-- The reply fields of READ_ZONE. -/
def State.zoneFields (s : State) : ReplyFields :=
  match s.replica.picture with
  | none => .zones s.controller.protection none s.active [] none
  | some pic =>
    .zones s.controller.protection (some pic.sequence) s.active (pic.zones.map s.zoneEntry) (some (s.checkEntry pic.check))

/-- READ_ZONE (R115). -/
def askReadZone (s : State) : Answer := s.answer .ok s.zoneFields

/-- The command of that request. -/
def execReadZone (s : State) : Host.Outcome State Fault Refusal := request askReadZone s

end Sys2Proof.Machine
end

