-- ==== Sys2Proof/Machine/Controller.lean ====
section
/-! DEFINITION. The Protection Controller's requests and rows, and READ_CLOCK (R59, R165 to R171). -/

namespace Sys2Proof.Machine

/-! ### SET_STATION (R165) -/

/-- The four parameters as read, or the first one outside its list or range, in the order R165 lists them (log entry 15). -/
def stationOf (frequency depth mark sections : Nat) : Except FieldName Station :=
  match frequencyOf frequency with
  | none => .error .frequency
  | some f =>
    if depth < 2 ∨ 12 < depth then .error .depth
    else match yesNo mark with
      | none => .error .markRequired
      | some m =>
        match sectionOf sections with
        | none => .error .sections
        | some x => .ok { frequency := f, depth := depth, markRequired := m, twoSections := x == .two }

/-- The lowest configured bay that a station of one section cannot have. -/
def State.misplaced (s : State) : Option Pos := allPos.find? fun p => (s.bay p).needsTwo

/-- The parameters written, and the bus zones that come into or go out of existence (R23, R165). -/
def State.writeStation (s : State) (t : Station) : State :=
  { s with
    controller := { s.controller with station := t }
    replica := s.replica.withSections t.twoSections }

/-- The parameters written, with the releases that a change of D brings about (R53, R57). -/
def State.setStation (s : State) (t : Station) : State :=
  if t.depth = s.depth then s.writeStation t else (s.writeStation t).settle

/-- SET_STATION (R165). -/
def askSetStation (frequency depth mark sections : Nat) (s : State) : Answer :=
  match stationOf frequency depth mark sections with
    | .error f => s.badField f
    | .ok t =>
      if s.controller.protection ≠ .halted ∨ s.allClosed = false then s.answer .badState
      else match (if t.twoSections then none else s.misplaced) with
        | some p => s.answer .conflict (.misplaced p)
        | none => (s.setStation t).answer .ok (.station t)

/-- The command of that request. -/
def execSetStation (frequency depth mark sections : Nat) (s : State) : Host.Outcome State Fault Refusal := request (askSetStation frequency depth mark sections) s

/-! ### START_PROTECTION (R166, R167) -/

/-- The wait timer of a start with extension e (R166). -/
def waitSpan (e : Nat) : Nat := 2400 + e * 240

/-- The device operation starts (R166). -/
def DeviceOp.begun : DeviceOp := { started := true, state := .busy, result := none }

/-- STARTING, with the wait timer running (R166). -/
def State.beginStart (s : State) (e : Nat) : State :=
  { s with
    controller := { s.controller with protection := .starting, op := .begun, waitTimer := some (waitSpan e) } }

/-- A start with no IN_SERVICE feeder ends at once (R166). -/
def State.startWithoutFeeder (s : State) : State :=
  State.endStart { s with controller := { s.controller with op := .begun } } .noFeeder

/-- START_PROTECTION accepted: the reply carries the record as it stands after the request, and the start condition is then
tested (R166). -/
def State.start (s : State) (e : Nat) : Answer :=
  if s.hasFeeder then
    { state := State.settleAfter s (s.beginStart e).testStart
      reply := { code := .accepted, fields := .deviceOp (s.beginStart e).controller.op } }
  else s.startWithoutFeeder.answer .accepted (.deviceOp s.startWithoutFeeder.controller.op)

/-- START_PROTECTION (R166). -/
def askStartProtection (extension : Nat) (s : State) : Answer :=
    if 255 < extension then s.answer .badValue
    else if s.controller.protection ≠ .halted then s.answer .badState
    else s.start extension

/-- The command of that request. -/
def execStartProtection (extension : Nat) (s : State) : Host.Outcome State Fault Refusal := request (askStartProtection extension) s

/-- START_SUCCESS (R167): the start condition is found holding while STARTING. -/
def execStartSuccess (s : State) : Host.Outcome State Fault Refusal :=
  event (fun s => if s.startHolds then s.succeedStart.settle else s) s

/-- START_TIMEOUT (R168): the wait timer reaches zero in STARTING. -/
def execStartTimeout (s : State) : Host.Outcome State Fault Refusal :=
  event (fun s => if s.startRunsOut then s.failStart.settle else s) s

/-! ### STOP_PROTECTION (R168, R169) -/

/-- STOP_PROTECTION, by the protection state. -/
def State.stop (s : State) : Answer :=
  match s.controller.protection with
  | .halted => s.answer .badState
  | .starting => s.abortStart.settle.answer .ok
  | .running =>
    match s.stopRefusal with
    | some c => s.answer c
    | none => s.stopRunning.settle.answer .ok

/-- STOP_PROTECTION (R169). -/
def askStopProtection (s : State) : Answer := s.stop

/-- The command of that request. -/
def execStopProtection (s : State) : Host.Outcome State Fault Refusal := request askStopProtection s

/-! ### RESTART, QUERY_OPERATION, READ_CLOCK (R59, R170, R171) -/

/-- RESTART (R171): the reply OK first; the restart is then pending (log entry 6). -/
def askRestart (s : State) : Answer :=
  State.answer { s with controller := { s.controller with restartPending := true } } .ok

/-- The command of that request. -/
def execRestart (s : State) : Host.Outcome State Fault Refusal := request askRestart s

/-- The reply fields of QUERY_OPERATION of DEVICE (R170). -/
def State.deviceFields (s : State) : ReplyFields :=
  .deviceStatus s.controller.op s.controller.protection s.controller.waitTimer s.startCondition s.notActive
    (s.clock.state == .locked)

/-- QUERY_OPERATION (R170). -/
def askQueryOperation (target : Nat) (s : State) : Answer :=
    if target = 0 then s.answer .ok s.deviceFields
    else match bayOf target with
      | some p => s.answer .ok (.linkStatus (s.link p).op (s.link p).state)
      | none => s.answer .badValue

/-- The command of that request. -/
def execQueryOperation (target : Nat) (s : State) : Host.Outcome State Fault Refusal := request (askQueryOperation target) s

/-- READ_CLOCK (R59). -/
def askReadClock (s : State) : Answer :=
    s.answer .ok (.clock s.clock s.controller.station.frequency s.next s.depth s.releaseUnit.blockCounter)

/-- The command of that request. -/
def execReadClock (s : State) : Host.Outcome State Fault Refusal := request askReadClock s

end Sys2Proof.Machine
end

