-- ==== Sys2Proof/WellFormed.lean ====
section
/-! DEFINITION. Which commands can come to the part: operands that fit the wire fields and the ranges the spec gives the events. -/

namespace Sys2Proof

/-- A number carried in one byte of a request body (R181). -/
def fitsByte (n : Nat) : Bool := n < 256

/-- A number carried in two bytes of a request body (R181). -/
def fitsTwo (n : Nat) : Bool := n < 65536

/-- The bytes that each of the nineteen settings fields takes, the fewest that hold its range (R155, R181). -/
def settingsWidths : List Nat := [2, 1, 1, 1, 1, 2, 1, 1, 2, 1, 2, 2, 2, 2, 2, 2, 1, 2, 1]

/-- Every value of a STAGE_SETTINGS fits its field; values beyond the nineteenth are surplus bytes, as many as a body of 600
bytes holds after the 29 of a group. -/
def settingsFit (vs : List Nat) : Bool :=
  ((vs.zip settingsWidths).all fun x => x.1 < 256 ^ x.2) && (vs.drop 19).all fitsByte && vs.length ≤ 590

/-- A scaled current lies between -134,217,728 and +134,217,728 (R102). -/
def scaledInRange (x : Int) : Bool := -134217728 ≤ x && x ≤ 134217728

/-- The check of a command's operands (R45, R61, R102, R173, R181). -/
def Instr.wellFormed : Instr → Bool
  | .identify c => fitsByte c
  | .fetchNotices r => fitsByte r
  | .setStation f d m x => fitsByte f && fitsByte d && fitsByte m && fitsByte x
  | .startProtection e => fitsByte e
  | .stopProtection => true
  | .restart => true
  | .warmRestart => true
  | .queryOperation t => fitsByte t
  | .configureBay b k x u c p a =>
      fitsByte b && fitsByte k && fitsByte x && fitsByte u && fitsTwo c && fitsByte p && fitsByte a
  | .setService b t => fitsByte b && fitsByte t
  | .override b e v => fitsByte b && fitsByte e && fitsByte v
  | .readBay b => fitsByte b
  | .blockZone zs => zs.length < 256 && zs.all fitsByte
  | .unblockZone zs c => zs.length < 256 && zs.all fitsByte && fitsByte c
  | .readZone => true
  | .readClock => true
  | .openLink b e => fitsByte b && fitsByte e
  | .closeLink b d w => fitsByte b && fitsByte d && fitsByte w
  | .readLink b c => fitsByte b && fitsByte c
  | .reallocate b a => fitsByte b && fitsByte a
  | .stageSettings vs => settingsFit vs
  | .switchSettings => true
  | .switchSettingsCancel => true
  | .readSettings x => fitsByte x
  | .sendOrder b k a => fitsByte b && fitsByte k && fitsTwo a
  | .resetTrip t => fitsByte t
  | .readRecord x i => fitsByte x && fitsByte i
  | .releaseRecord i => fitsByte i
  | .powerOnReset _ _ => true
  | .messageFrameReceived f => f.body.length ≤ Config.maxBody
  | .messageGap _ => true
  | .replySent => true
  | .sampleBoundary => true
  | .mark _ phase => -127 ≤ phase && phase ≤ 128
  | .missingCountRise => true
  | .markTimeout => true
  | .frameArrival _ bs => bs.length ≤ 19
  | .wakeBringUp _ bs => bs.length == 19
  | .linkActive _ bs => bs.length == 19
  | .recoveryActive _ bs => bs.length == 19
  | .bringUpFailed _ bs => bs.length == 19
  | .bringUpTimeout _ => true
  | .lockTimeout _ => true
  | .linkLost _ => true
  | .release => true
  | .replicaOpen _ _ => true
  | .isolatorStuck _ e => e != .breaker
  | .breakerStuck _ => true
  | .dataLost _ => true
  | .dataRestored _ => true
  | .spanEnd _ _ => true
  | .evolvingFault _ _ => true
  | .returnToQuiet _ => true
  | .ctSupervision _ ids =>
      ids.l1 ≤ Config.currentLimit && ids.l2 ≤ Config.currentLimit && ids.l3 ≤ Config.currentLimit
  | .bfCleared _ => true
  | .bfExpiry _ none => true
  | .bfExpiry _ (some i) => scaledInRange i.l1 && scaledInRange i.l2 && scaledInRange i.l3
  | .drainComplete _ => true
  | .settingsSwitched => true
  | .tripUnconfirmed _ _ => true
  | .orderDone _ => true
  | .orderTimeout _ => true
  | .startSuccess => true
  | .startTimeout => true
  | .resetnAsserted => true
  | .messageFrameStart => true
  | .stopBitMissing => true
  | .bodyLengthExcess n => Config.maxBody < n && fitsTwo n

end Sys2Proof
end

