-- ==== Sys2Proof/Machine/Wire.lean ====
section
/-! DEFINITION. The wire: replies, notices and message frames as bytes (R175, R176, R181); where R181 leaves a byte open the choice is log entry 8. -/

namespace Sys2Proof.Machine

/-! ### Types of field (R181) -/

/-- A number in four bytes, and signed numbers in two and four. -/
def byte4 (n : Nat) : List Byte := byte2 (n / 65536) ++ byte2 (n % 65536)
def signed2 (x : Int) : List Byte := byte2 (x % 65536).toNat
def signed4 (x : Int) : List Byte := byte4 (x % 4294967296).toNat

/-- Yes or no; an indication for which no rule lists values, the switch-pending flag among them, is sent as one (R181; log entry 8). -/
def flag1 (b : Bool) : List Byte := byte1 (if b then 1 else 0)

/-- A field whose rule lists its values as set, clear: a named value, 0 for set and 1 for clear (R23, R116, R133, R181; log entry 8). -/
def setClear1 (b : Bool) : List Byte := byte1 (if b then 0 else 1)

/-- A field that may be absent. -/
def optional {α : Type} (enc : α → List Byte) : Option α → List Byte
  | none => byte1 0
  | some a => byte1 1 ++ enc a

/-- A list: its count, then the items. -/
def listOf {α : Type} (enc : α → List Byte) (xs : List α) : List Byte := byte1 xs.length ++ xs.flatMap enc

/-- A sequence number. -/
def seq2 (q : Seq) : List Byte := byte2 q.toNat

/-- The bit of a phase, and a set of phases. -/
def phaseBit : Phase → Nat
  | .l1 => 1
  | .l2 => 2
  | .l3 => 4
def phaseSet (ps : List Phase) : List Byte := byte1 ((ps.map phaseBit).foldl (· + ·) 0)

/-- The bit number of a bus zone, and a set of bus zones. -/
def zoneBit : BusZone → Nat
  | .a1 => 0
  | .b1 => 1
  | .a2 => 2
  | .b2 => 3
def zoneSet (zs : List BusZone) : List Byte := byte1 ((zs.map fun z => 2 ^ zoneBit z).foldl (· + ·) 0)

/-- A bay or link number; a list of them. -/
def bay1 (p : Pos) : List Byte := byte1 (number p)
def bays1 (ps : List Pos) : List Byte := listOf bay1 ps

/-- Three currents. -/
def currents4 (i : PerPhase Int) : List Byte := signed4 i.l1 ++ signed4 i.l2 ++ signed4 i.l3

/-! ### Named values, counting from 0 in the order their rules list them -/

def kindCode : BayKind → Nat
  | .feeder => 0
  | .coupler => 1
  | .sectionBay => 2
def sectionCode : SectionNo → Nat
  | .one => 1
  | .two => 2
def busCode : Bus → Nat
  | .a => 0
  | .b => 1
def polarityCode : Polarity → Nat
  | .normal => 0
  | .reversed => 1
def serviceCode : Service → Nat
  | .outOfService => 0
  | .maintenance => 1
  | .inService => 2
def contactCode : ContactStatus → Nat
  | .closed => 0
  | .opened => 1
  | .travel => 2
  | .invalid => 3
  | .unread => 4
def replicaCode : Replica → Nat
  | .opened => 0
  | .closed => 1
def forcingCode : Forcing → Nat
  | .none => 0
  | .forceOpen => 1
  | .forceClosed => 2
def elementCode : Element → Nat
  | .isolatorA => 0
  | .isolatorB => 1
  | .breaker => 2
def latchCode : LatchKind → Nat
  | .trip => 0
  | .transferTrip => 1
def orderCode : OrderKind → Nat
  | .testTrip => 0
  | .ping => 1
  | .enterTest => 2
  | .leaveTest => 3
  | .resetUnit => 4
def bfCode : BfState → Nat
  | .idle => 0
  | .timing => 1
  | .failed => 2
def causeCode : StartCause → Nat
  | .decision => 0
  | .backTrip => 1
  | .bfi => 2
def reasonCode : FailureReason → Nat
  | .absent => 0
  | .current => 1
  | .breakerClosed => 2
def cancelCode : CancelCause → Nat
  | .latch => 0
  | .service => 1
def errorCode : ErrorKind → Nat
  | .crc => 0
  | .address => 1
  | .late => 2
  | .duplicate => 3
  | .overrun => 4
  | .syncLoss => 5
def wakeCode : WakeOutcome → Nat
  | .none => 0
  | .started => 1
  | .belowDepth => 2
def linkStateCode : LinkState → Nat
  | .down => 0
  | .dormant => 1
  | .hunt => 2
  | .lock => 3
  | .measure => 4
  | .active => 5
def linkOpCode : LinkOpKind → Nat
  | .none => 0
  | .openLink => 1
  | .reallocate => 2
/-- The results of R81's list for OPEN, which serve a REALLOCATE as well (log entry 8). -/
def linkResultCode : LinkResult → Nat
  | .ok => 0
  | .timeout => 1
  | .lateLink => 2
  | .overrun => 3
  | .aborted => 4
def opStateCode : OpState → Nat
  | .idle => 0
  | .busy => 1
  | .done => 2
def protectionCode : Protection → Nat
  | .halted => 0
  | .starting => 1
  | .running => 2
def clockCode : ClockState → Nat
  | .free => 0
  | .locked => 1
  | .holdover => 2
def clockCauseCode : ClockCause → Nat
  | .regularMarks => 0
  | .irregularMark => 1
  | .markTimeout => 2
  | .marksMissing => 3
def classifierCode : Classifier → Nat
  | .quiet => 0
  | .onset => 1
  | .internal => 2
  | .external => 3
def passCode : PassReason → Nat
  | .latch => 0
  | .notQuiet => 1
def settingsFieldCode : SettingsField → Nat
  | .idmin => 0
  | .slope => 1
  | .slopeX => 2
  | .w => 3
  | .m => 4
  | .czIdmin => 5
  | .czSlope => 6
  | .czM => 7
  | .onsetStep => 8
  | .onsetSpan => 9
  | .irreset => 10
  | .quietSpan => 11
  | .ctsLevel => 12
  | .ctsSpan => 13
  | .ibf => 14
  | .bfTime => 15
  | .openDebounce => 16
  | .travelLimit => 17
  | .echoSpan => 18

/-- The number of a result code (R175). -/
def ResultCode.wireNumber : ResultCode → Nat
  | .ok => 0
  | .accepted => 1
  | .sent => 2
  | .reserved => 3
  | .busy => 4
  | .portBusy => 5
  | .badState => 6
  | .badKind => 7
  | .badLength => 8
  | .badValue => 9
  | .notConfigured => 10
  | .notDead => 11
  | .conflict => 12
  | .noPool => 13
  | .belowDepth => 14
  | .bfRunning => 15
  | .tripLatched => 16
  | .currentFlowing => 17
  | .linkNotActive => 18
  | .noStaged => 19
  | .pending => 20
  | .noRecord => 21

/-- The place of a named field among the fields of its request (log entry 8). -/
def fieldCode : FieldName → Nat
  | .bayNumber => 0
  | .kind => 1
  | .sectionNo => 2
  | .bus => 3
  | .scale => 4
  | .polarity => 5
  | .alloc => 6
  | .frequency => 0
  | .depth => 1
  | .markRequired => 2
  | .sections => 3

def frequencyCode : Frequency → Nat
  | .hz50 => 50
  | .hz60 => 60

/-! ### Notices (R176, R181) -/

/-- The result of a start. -/
def startResultBytes : StartResult → List Byte
  | .ok => byte1 0
  | .noFeeder => byte1 1
  | .aborted => byte1 2
  | .notMet links clock =>
    byte1 3 ++ byte1 ((if links.isEmpty then 0 else 1) + (if clock then 2 else 0)) ++ bays1 links

/-- The reasons of a block that hold, in the order HOST, CTS, DATA, TEST, each with its set or list. -/
def Reasons.items (r : Reasons) : List (List Byte) :=
  (if r.host.isEmpty then [] else [byte1 0 ++ zoneSet r.host]) ++ (if r.cts.isEmpty then [] else [byte1 1 ++ zoneSet r.cts]) ++
    (if r.data.isEmpty then [] else [byte1 2 ++ bays1 r.data]) ++ (if r.test.isEmpty then [] else [byte1 3 ++ bays1 r.test])

/-- The check zone's reasons: CTS with an empty set, DATA with its bays. -/
def checkItems (cts : Bool) (data : List Pos) : List (List Byte) :=
  (if cts then [byte1 1 ++ zoneSet []] else []) ++ (if data.isEmpty then [] else [byte1 2 ++ bays1 data])

/-- A list of reasons. -/
def reasonsBytes (items : List (List Byte)) : List Byte := listOf (fun x => x) items

/-- A zone's name, or CHECK after the four names. -/
def zoneName1 : Option BusZone → List Byte
  | none => byte1 4
  | some z => byte1 (zoneBit z)

/-- The kind number of a notice (R176). -/
def NoticeDetail.kindNumber : NoticeDetail → Nat
  | .tripDecision .. => 1
  | .tripRetrip .. => 1
  | .bfFailed .. => 2
  | .tripUnconfirmed .. => 3
  | .orderDone .. => 4
  | .orderTimeout .. => 5
  | .orderCancelled .. => 6
  | .linkActive .. => 7
  | .linkLost .. => 8
  | .linkActivity .. => 9
  | .linkErrors .. => 10
  | .linkOpDone .. => 11
  | .startDone .. => 11
  | .zoneBlocked .. => 12
  | .checkBlocked .. => 12
  | .zoneUnblocked .. => 13
  | .checkUnblocked => 13
  | .ctSupervision .. => 14
  | .isolatorStuck .. => 15
  | .breakerStuck .. => 16
  | .contactInvalid .. => 17
  | .maintenanceViolation .. => 18
  | .testModeSeen .. => 19
  | .dataLost .. => 20
  | .dataRestored => 21
  | .settingsSwitched .. => 22
  | .clockState .. => 23
  | .recordsNearlyFull .. => 24
  | .recordLost .. => 25

/-- The sequence of the boundary release, absent for REQUEST, after the trigger. -/
def triggerBytes : SwitchTrigger → List Byte
  | .request => byte1 0 ++ byte1 0
  | .boundary q => byte1 1 ++ byte1 1 ++ seq2 q

/-- The detail fields of a notice, in the order of its posting rule. The bay of the subject is not sent again, and ZONE_UNBLOCKED
has no reasons field, where ZONE_BLOCKED always has one (log entry 8). A start cause and the last good sequence of a lost link are
never absent (R74, R146). -/
def NoticeDetail.bytes : NoticeDetail → List Byte
  | .tripDecision z zs ps bays q r =>
    byte1 0 ++ byte1 (zoneBit z) ++ zoneSet zs ++ phaseSet ps ++ bays1 bays ++ seq2 q ++ optional byte1 r
  | .tripRetrip q => byte1 1 ++ seq2 q
  | .bfFailed rs i c bays q r =>
    listOf (fun x => byte1 (reasonCode x)) rs ++ optional currents4 i ++ c.toList.flatMap (fun x => byte1 (causeCode x)) ++ bays1 bays ++
      seq2 q ++ optional byte1 r
  | .tripUnconfirmed k q => byte1 (latchCode k) ++ seq2 q
  | .orderDone k n q => byte1 (orderCode k) ++ byte1 n ++ seq2 q
  | .orderTimeout k n => byte1 (orderCode k) ++ byte1 n
  | .orderCancelled k n c => byte1 (orderCode k) ++ byte1 n ++ byte1 (cancelCode c)
  | .linkActive r lo hi w =>
    flag1 r ++ (lo.toList.flatMap signed2) ++ (hi.toList.flatMap signed2) ++ optional flag1 w
  | .linkLost q => q.toList.flatMap seq2
  | .linkActivity q o => seq2 q ++ byte1 (wakeCode o)
  | .linkErrors k n => byte1 (errorCode k) ++ byte2 n
  | .linkOpDone k r w => byte1 (linkOpCode k) ++ byte1 (linkResultCode r) ++ flag1 w
  | .startDone r => byte1 1 ++ startResultBytes r
  | .zoneBlocked z zs ch r => zoneName1 (some z) ++ optional zoneSet (some zs) ++ zoneSet ch ++ reasonsBytes r.items
  | .checkBlocked c d => zoneName1 none ++ optional zoneSet none ++ zoneSet [] ++ reasonsBytes (checkItems c d)
  | .zoneUnblocked z zs ch => zoneName1 (some z) ++ optional zoneSet (some zs) ++ zoneSet ch
  | .checkUnblocked => zoneName1 none ++ optional zoneSet none ++ zoneSet []
  | .ctSupervision z zs ps =>
    zoneName1 z ++ optional zoneSet (z.map fun _ => zs) ++ phaseSet (ps.map Prod.fst) ++ listOf (fun x => byte4 x.2) ps
  | .isolatorStuck e n => byte1 (elementCode e) ++ byte2 n
  | .breakerStuck e n => byte1 (elementCode e) ++ byte2 n
  | .contactInvalid e q => byte1 (elementCode e) ++ seq2 q
  | .maintenanceViolation es => listOf (fun e => byte1 (elementCode e)) es
  | .testModeSeen e => byte1 (if e then 0 else 1)
  | .dataLost q => optional seq2 q
  | .dataRestored => []
  | .settingsSwitched t n fs => triggerBytes t ++ byte2 n ++ listOf (fun f => byte1 (settingsFieldCode f)) fs
  | .clockState a b c n q e =>
    byte1 (clockCode a) ++ byte1 (clockCode b) ++ byte1 (clockCauseCode c) ++ byte4 n.toNat ++ seq2 q ++ signed2 e
  | .recordsNearlyFull n => byte1 n
  | .recordLost bf q n => byte1 (if bf then 1 else 0) ++ seq2 q ++ byte2 n

/-- The subject type and value of a notice. -/
def Subject.bytes : Subject → List Byte
  | .nobody => byte1 0 ++ byte1 0
  | .bay p => byte1 1 ++ bay1 p
  | .link p => byte1 2 ++ bay1 p
  | .busZone z => byte1 3 ++ byte1 (zoneBit z)
  | .device => byte1 4 ++ byte1 0

/-- A notice in a FETCH_NOTICES reply. -/
def Notice.bytes (n : Notice) : List Byte :=
  byte1 n.detail.kindNumber ++ n.subject.bytes ++ seq2 n.postedAt ++ byte1 n.detail.bytes.length ++ n.detail.bytes

/-! ### Reply fields (R175, R181) -/

def deviceOpBytes (o : DeviceOp) : List Byte :=
  flag1 o.started ++ byte1 (opStateCode o.state) ++ optional startResultBytes o.result

def linkOpBytes (o : LinkOp) : List Byte :=
  byte1 (linkOpCode o.kind) ++ byte1 (opStateCode o.state) ++ optional (fun r => byte1 (linkResultCode r)) o.result ++ flag1 o.wake

def elementBytes (overridable : Bool) (e : ElementRecord) (effective : Replica) : List Byte :=
  byte1 (contactCode e.contact) ++ byte1 (replicaCode e.derived) ++ byte1 e.debounce ++ byte2 e.travel ++ flag1 e.stuck ++
    byte1 (if overridable then forcingCode e.forcing else 0) ++ byte1 (replicaCode effective)

def bayBytes (p : Pos) (b : BayRecord) (a bb k : Replica) (dead : Bool) : List Byte :=
  bay1 p ++ flag1 b.configured ++ byte1 (kindCode b.kind) ++ byte1 (sectionCode b.sectionNo) ++ byte1 (busCode b.bus) ++
    byte2 b.scale ++ byte1 (polarityCode b.polarity) ++ byte1 b.alloc ++ byte1 (serviceCode b.service) ++
    elementBytes (b.kind.overridable .isolatorA) b.isolatorA a ++ elementBytes (b.kind.overridable .isolatorB) b.isolatorB bb ++
    elementBytes (b.kind.overridable .breaker) b.breaker k ++ flag1 dead ++
    optional (fun l => currents4 l.currents ++ seq2 l.sequence) b.last ++ byte2 b.missingRun ++ byte2 b.presentRun ++
    flag1 b.data ++ flag1 b.testSeen ++ flag1 b.bfiPrevious

def stationBytes (t : Station) : List Byte :=
  byte1 (frequencyCode t.frequency) ++ byte1 t.depth ++ flag1 t.markRequired ++ byte1 (if t.twoSections then 2 else 1)

def clockBytes (c : Clock) (f : Frequency) (next : Seq) (depth block : Nat) : List Byte :=
  byte1 (clockCode c.state) ++ byte1 (frequencyCode f) ++ seq2 c.current ++ seq2 next ++ byte1 depth ++ byte1 block ++
    byte4 c.markCount.toNat ++ seq2 c.atMark ++ signed2 c.phaseError ++ byte2 c.sinceMark ++ byte1 c.regularRun ++
    byte1 c.missing ++ signed2 c.outstanding

def linkBytes (l : LinkRecord) (suppressed : Bool) (v : PoolView) (held : Nat) : List Byte :=
  byte1 (linkStateCode l.state) ++ flag1 l.recovery ++ flag1 l.wakeOption ++ flag1 l.activitySeen ++ byte1 l.extension ++
    optional byte4 l.timer ++ byte1 l.good ++ optional seq2 l.lastGood ++ byte2 l.sinceGood ++ optional signed2 l.lagMin ++
    optional signed2 l.lagMax ++ byte2 l.errors.crc ++ byte2 l.errors.address ++ byte2 l.errors.late ++ byte2 l.errors.duplicate ++
    byte2 l.errors.overrun ++ byte2 l.errors.syncLoss ++ byte2 l.errors.suppressed ++ flag1 suppressed ++
    byte1 v.alloc ++ seq2 v.grant ++ byte1 held ++ flag1 v.stalled ++ linkOpBytes l.op

def poolBytes (v : PoolView) : List Byte := byte1 v.alloc ++ byte1 v.span ++ seq2 v.grant ++ flag1 v.stalled

/-- The fields of a settings group, each in the bytes its range takes. -/
def settingsBytes (g : Settings) : List Byte :=
  byte2 g.idmin ++ byte1 g.slope ++ byte1 g.slopeX ++ byte1 g.w ++ byte1 g.m ++ byte2 g.czIdmin ++ byte1 g.czSlope ++
    byte1 g.czM ++ byte2 g.onsetStep ++ byte1 g.onsetSpan ++ byte2 g.irreset ++ byte2 g.quietSpan ++ byte2 g.ctsLevel ++
    byte2 g.ctsSpan ++ byte2 g.ibf ++ byte2 g.bfTime ++ byte1 g.openDebounce ++ byte2 g.travelLimit ++ byte1 g.echoSpan

def field1 (f : SettingsField) : List Byte := byte1 (settingsFieldCode f)

/-- A member: its bay, then its sign, 0 for +1 and 1 for -1 (log entry 8). -/
def memberBytes (m : Member) : List Byte := bay1 m.bay ++ byte1 (if m.minus then 1 else 0)

/-- The fields of one phase of an evaluated entry; a check-zone entry has no history length. -/
def phaseBytes (r : PhaseResult) (history : List Byte) : List Byte :=
  byte4 r.id ++ byte4 r.ir ++ flag1 r.mark ++ byte1 r.count ++ byte1 r.length ++ flag1 r.met ++ flag1 r.operating ++ history

/-- The per-phase fields of an evaluated entry, as one field that is absent with the complete indication (R116, log entry 8). -/
def resultBytes (history : PerPhase (List Byte)) (r : ZoneResult) : List Byte :=
  phaseBytes r.phases.l1 history.l1 ++ phaseBytes r.phases.l2 history.l2 ++ phaseBytes r.phases.l3 history.l3

/-- An effective zone's entry (R116). -/
def zoneEntryBytes (e : ZoneEntry) : List Byte :=
  byte1 (zoneBit e.zone.name) ++ zoneSet e.zone.zones ++ listOf memberBytes e.zone.members ++ flag1 e.live ++
    flag1 e.zone.changed ++ flag1 e.blocked ++ reasonsBytes e.zone.reasons.items ++ flag1 e.result.isSome ++
    byte1 (classifierCode e.classifier) ++ byte1 e.slope ++ byte1 e.threshold ++ optional (fun r => flag1 r.complete) e.result ++
    optional (fun r => resultBytes (e.historyLength.map byte1) r) e.result ++ setClear1 e.flag

/-- The check zone's entry (R116); its members are bay numbers alone, since R32 gives each the sign +1 (log entry 8). -/
def checkEntryBytes (e : CheckEntry) : List Byte :=
  bays1 e.zone.members ++ flag1 e.live ++ flag1 e.zone.changed ++ flag1 e.blocked ++
    reasonsBytes (checkItems e.zone.cts e.zone.data) ++ flag1 e.result.isSome ++ optional (fun r => flag1 r.complete) e.result ++
    optional (resultBytes ⟨[], [], []⟩) e.result

def latchBytes (l : Latch) : List Byte := setClear1 l.set ++ flag1 l.confirmed ++ seq2 l.sequence

/-- The tag and kind of an order place. -/
def placeBytes (o : OrderKind × Nat) : List Byte := byte1 o.2 ++ byte1 (orderCode o.1)

/-- A bay's trip state, its bay number first; the remaining of a bay that is not TIMING is sent as the number it then holds, 0, with no
presence byte (R133, R149; log entry 8). -/
def tripSummaryBytes (t : TripSummary) : List Byte :=
  bay1 t.bay ++ latchBytes t.trip ++ latchBytes t.transfer ++ byte1 (bfCode t.bf) ++ byte2 t.remaining ++
    optional (fun c => byte1 (causeCode c)) t.cause ++ optional placeBytes t.inFlight ++ optional placeBytes t.reserved

def trippedBytes (t : TrippedPhase) : List Byte := byte4 t.id ++ byte4 t.ir ++ byte4 t.checkId

/-- A trip record whole (R147); the fields per tripped phase are a list with its count, beside the set of phases (log entry 8); the start
cause of a failed bay is never absent. -/
def recordBytes (r : TripRecord) : List Byte :=
  byte1 r.id ++ byte1 (match r.cause with | .differential .. => 0 | .breakerFailure .. => 1) ++ zoneSet r.zones ++ phaseSet r.phases ++
    seq2 r.sequence ++ byte4 r.stamp.count.toNat ++ signed2 r.stamp.offset ++ flag1 r.stamp.stale ++
    (match r.cause with
     | .differential c ts => byte1 1 ++ byte1 (classifierCode c) ++ byte1 1 ++ listOf trippedBytes ts
     | .breakerFailure .. => byte1 0 ++ byte1 0) ++
    bays1 r.bays ++
    (match r.cause with
     | .differential .. => byte1 0
     | .breakerFailure p rs c =>
       byte1 1 ++ bay1 p ++ listOf (fun x => byte1 (reasonCode x)) rs ++ c.toList.flatMap fun x => byte1 (causeCode x))

/-- The bytes of the reply fields; a validity is 1 for valid, the switch-pending flag is a yes/no, and a field whose presence the result
code tells has no presence byte (log entry 8). -/
def ReplyFields.bytes : ReplyFields → List Byte
  | .nothing => []
  | .field f => byte1 (fieldCode f)
  | .element e => byte1 e
  | .zone z => byte1 (zoneBit z)
  | .identity rate a b c d e f lost p =>
    byte2 Config.vendorCode ++ byte2 Config.partCode ++ byte1 Config.revision ++ byte1 24 ++ byte2 Config.slotCount ++
      byte1 Config.noticeCapacity ++ byte1 Config.recordCapacity ++ byte4 rate ++ byte2 a ++ byte2 b ++ byte2 c ++ byte2 d ++
      byte2 e ++ byte2 f ++ byte2 lost ++ byte1 (protectionCode p)
  | .notices ns held lost => listOf Notice.bytes ns ++ byte1 held ++ byte2 lost
  | .station t => stationBytes t
  | .deviceOp o => deviceOpBytes o
  | .deviceStatus o p w c ls k =>
    deviceOpBytes o ++ byte1 (protectionCode p) ++ optional byte2 w ++ flag1 c ++ bays1 ls ++ flag1 k
  | .linkStatus o st => linkOpBytes o ++ byte1 (linkStateCode st)
  | .conflicting p => optional bay1 p
  | .misplaced p => bay1 p
  | .freeBudget n => byte2 n
  | .replica r => byte1 (replicaCode r)
  | .bay p b x y z d => bayBytes p b x y z d
  | .zoneFlags fs c p => listOf (fun f => setClear1 f.2.1 ++ setClear1 f.2.2) fs ++ setClear1 c ++ flag1 p
  | .zones p last g es c =>
    byte1 (protectionCode p) ++ optional seq2 last ++ byte1 g.w ++ byte1 g.m ++ byte1 g.czM ++ byte1 g.slope ++ byte1 g.slopeX ++
      byte1 g.czSlope ++ listOf zoneEntryBytes es ++ optional checkEntryBytes c
  | .clock c f next d b => clockBytes c f next d b
  | .link l sup v held => linkBytes l sup v held
  | .pool v free => poolBytes v ++ byte2 free
  | .poolOfNoBay n free => (List.range 5).map (Config.unstatedReallocateByte n) ++ byte2 free
  | .staged named valid first => named.toList.flatMap field1 ++ flag1 valid ++ optional field1 first
  | .settings g valid first p n r =>
    settingsBytes g ++ flag1 valid ++ optional field1 first ++ flag1 p ++ byte2 n ++ optional (fun x => byte1 (passCode x)) r
  | .switchPending p => flag1 p
  | .tag n => byte1 n
  | .trip t => tripSummaryBytes t
  | .resetAll rs fs => bays1 rs ++ listOf (fun f => bay1 f.1 ++ byte1 f.2.wireNumber) fs
  | .records r ids next lost ts =>
    r.toList.flatMap recordBytes ++ listOf byte1 ids ++ byte1 next ++ byte2 lost ++ listOf tripSummaryBytes ts
  | .recordsHeld n => byte1 n

/-! ### Message frames (R181) -/

/-- The bytes over which the CRC of a message frame is taken: length, kind, tag, body. -/
def frameContent (kind tag : Byte) (body : List Byte) : List Byte := byte2 body.length ++ [kind, tag] ++ body

/-- The CRC check of a received frame. -/
def soundFrame (f : MessageFrame) : Bool := f.crc == crc16 (frameContent f.kind f.tag f.body)

/-- A frame on the line: lead byte, content, CRC. -/
def frameBytes (kind tag : Byte) (body : List Byte) : List Byte :=
  0x5B#8 :: frameContent kind tag body ++ byte2 (crc16 (frameContent kind tag body)).toNat

/-- The reply frame to a request: the kind with the reply mark, the tag, the result code, the reply fields (R175). -/
def replyFrame (r : RawRequest) (a : Reply) : List Byte :=
  frameBytes (r.kind ||| 0x80#8) r.tag (byte1 a.code.wireNumber ++ a.fields.bytes)

/-! ### Request bodies (R181) -/

/-- A number in a field of one or two bytes. -/
def byteN : Nat → Nat → List Byte
  | 1, n => byte1 n
  | _, n => byte2 n

/-- The fields of a body in their widths; values beyond the last field take one byte each. -/
def fieldBytes : List Nat → List Nat → List Byte
  | _, [] => []
  | [], vs => vs.flatMap byte1
  | w :: ws, v :: vs => byteN w v ++ fieldBytes ws vs

/-- The body of a request: its kind number and its bytes; none for a command that is no request (R181). -/
def requestBody : Instr → Option (Nat × List Byte)
  | .identify c => some (1, byte1 c)
  | .fetchNotices r => some (2, byte1 r)
  | .setStation f d m x => some (3, byte1 f ++ byte1 d ++ byte1 m ++ byte1 x)
  | .startProtection e => some (4, byte1 e)
  | .stopProtection => some (5, [])
  | .restart => some (6, [])
  | .queryOperation t => some (7, byte1 t)
  | .configureBay b k x u c p a =>
    some (8, byte1 b ++ byte1 k ++ byte1 x ++ byte1 u ++ byte2 c ++ byte1 p ++ byte1 a)
  | .setService b t => some (9, byte1 b ++ byte1 t)
  | .override b e v => some (10, byte1 b ++ byte1 e ++ byte1 v)
  | .readBay b => some (11, byte1 b)
  | .blockZone zs => some (12, listOf byte1 zs)
  | .unblockZone zs c => some (13, listOf byte1 zs ++ byte1 c)
  | .readZone => some (14, [])
  | .readClock => some (15, [])
  | .openLink b e => some (16, byte1 b ++ byte1 e)
  | .closeLink b d w => some (17, byte1 b ++ byte1 d ++ byte1 w)
  | .readLink b c => some (18, byte1 b ++ byte1 c)
  | .reallocate b a => some (19, byte1 b ++ byte1 a)
  | .stageSettings vs => some (20, fieldBytes settingsWidths vs)
  | .switchSettings => some (21, byte1 0)
  | .switchSettingsCancel => some (21, byte1 1)
  | .readSettings x => some (22, byte1 x)
  | .sendOrder b k a => some (23, byte1 b ++ byte1 k ++ byte2 a)
  | .resetTrip t => some (24, byte1 t)
  | .readRecord x i => some (25, byte1 x ++ byte1 i)
  | .releaseRecord i => some (26, byte1 i)
  | _ => none

/-- The request frame that carries a command, with its CRC (R181). -/
def requestFrame (tag : Byte) (i : Instr) : Option MessageFrame :=
  (requestBody i).map fun x =>
    { kind := BitVec.ofNat 8 x.1, tag := tag, body := x.2, crc := crc16 (frameContent (BitVec.ofNat 8 x.1) tag x.2) }

end Sys2Proof.Machine
end

