-- ==== Sys2Proof/Machine/MessagePort.lean ====
section
/-! DEFINITION. The Message Port: the receiver, the request places, the transmitter, the port's own requests, and the resets (R171 to R179). -/

namespace Sys2Proof.Machine

/-! ### The port's own requests (R177 to R179) -/

/-- The six port error counters set to zero (R179). -/
def Port.clearCounters (q : Port) : Port := { q with framing := 0, length := 0, gap := 0, crc := 0, busy := 0, overflow := 0 }

/-- The reply fields of IDENTIFY (R179). -/
def State.identityFields (s : State) : ReplyFields :=
  .identity s.port.rate s.port.framing s.port.length s.port.gap s.port.crc s.port.busy s.port.overflow s.port.lostNotices
    s.controller.protection

/-- IDENTIFY (R179). -/
def askIdentify (clear : Nat) (s : State) : Answer :=
  match yesNo clear with
  | none => s.answer .badValue
  | some c => (if c then { s with port := s.port.clearCounters } else s).answer .ok s.identityFields

/-- The command of that request. -/
def execIdentify (clear : Nat) (s : State) : Host.Outcome State Fault Refusal := request (askIdentify clear) s

/-- The queue, ATTN and armed after a fetch (R177, R178). -/
def Port.fetched (q : Port) (rearm : Bool) : Port :=
  let held := q.notices.drop Config.fetchLimit
  { q with
    notices := held
    lostNotices := 0
    attn := if held.isEmpty then false else q.attn || rearm
    armed := if rearm then held.isEmpty else q.armed }

/-- FETCH_NOTICES (R177). -/
def askFetchNotices (rearm : Nat) (s : State) : Answer :=
  match yesNo rearm with
  | none => s.answer .badValue
  | some r =>
    State.answer { s with port := s.port.fetched r } .ok
      (.notices (s.port.notices.take Config.fetchLimit) (s.port.notices.drop Config.fetchLimit).length s.port.lostNotices)

/-- The command of that request. -/
def execFetchNotices (rearm : Nat) (s : State) : Host.Outcome State Fault Refusal := request (askFetchNotices rearm) s

/-! ### Reading a request (R174, R181) -/

/-- What the port finds in a received request: a kind it does not know, a body of the wrong length, or the owner's work. -/
inductive Reading
  | badKind
  | badLength
  | owner (work : State → Answer)

/-- SWITCH_SETTINGS as the wire carries it, with its cancel option (R158, R161). -/
def askSwitch (cancel : Nat) (s : State) : Answer :=
  match yesNo cancel with
  | none => s.answer .badValue
  | some false => askSwitchSettings s
  | some true => askSwitchSettingsCancel s

/-- The number in some bytes, most significant first. -/
def numberOf (bs : List Byte) : Nat := bs.foldl (fun n b => n * 256 + b.toNat) 0

/-- The fields of a body by their widths; none when the bytes do not come out even. -/
def readFields : List Nat → List Byte → Option (List Nat)
  | [], [] => some []
  | [], _ :: _ => none
  | w :: ws, bs => if bs.length < w then none else (readFields ws (bs.drop w)).map fun ns => numberOf (bs.take w) :: ns

/-- The widths of the fields of a fixed-length request, by kind number (R181). -/
def bodyWidths : Nat → List Nat
  | 1 => [1]
  | 2 => [1]
  | 3 => [1, 1, 1, 1]
  | 4 => [1]
  | 7 => [1]
  | 8 => [1, 1, 1, 1, 2, 1, 1]
  | 9 => [1, 1]
  | 10 => [1, 1, 1]
  | 11 => [1]
  | 16 => [1, 1]
  | 17 => [1, 1, 1]
  | 18 => [1, 1]
  | 19 => [1, 1]
  | 20 => settingsWidths
  | 21 => [1]
  | 22 => [1]
  | 23 => [1, 1, 2]
  | 24 => [1]
  | 25 => [1, 1]
  | 26 => [1]
  | _ => []

/-- The list of BLOCK_ZONE with its count field; none when the count does not match the bytes that follow. -/
def countedList : List Byte → Option (List Nat)
  | [] => none
  | n :: bs => if bs.length = n.toNat then some (bs.map BitVec.toNat) else none

/-- The list and the CHECK indication of UNBLOCK_ZONE. -/
def countedListThen (bs : List Byte) : Option (List Nat × Nat) :=
  match bs.getLast? with
  | none => none
  | some c => (countedList bs.dropLast).map fun ns => (ns, c.toNat)

/-- The owner of a kind number and its fields (R181). RESTART is answered OK here; the restart follows its reply (R171). -/
def ownerOf : Nat → List Nat → Reading
  | 1, [c] => .owner (askIdentify c)
  | 2, [r] => .owner (askFetchNotices r)
  | 3, [f, d, m, x] => .owner (askSetStation f d m x)
  | 4, [e] => .owner (askStartProtection e)
  | 5, [] => .owner askStopProtection
  | 6, [] => .owner fun s => s.answer .ok
  | 7, [t] => .owner (askQueryOperation t)
  | 8, [b, k, x, u, c, p, a] => .owner (askConfigureBay b k x u c p a)
  | 9, [b, t] => .owner (askSetService b t)
  | 10, [b, e, v] => .owner (askOverride b e v)
  | 11, [b] => .owner (askReadBay b)
  | 14, [] => .owner askReadZone
  | 15, [] => .owner askReadClock
  | 16, [b, e] => .owner (askOpenLink b e)
  | 17, [b, d, w] => .owner (askCloseLink b d w)
  | 18, [b, c] => .owner (askReadLink b c)
  | 19, [b, a] => .owner (askReallocate b a)
  | 20, vs => .owner (askStageSettings vs)
  | 21, [c] => .owner (askSwitch c)
  | 22, [x] => .owner (askReadSettings x)
  | 23, [b, k, a] => .owner (askSendOrder b k a)
  | 24, [t] => .owner (askResetTrip t)
  | 25, [x, i] => .owner (askReadRecord x i)
  | 26, [i] => .owner (askReleaseRecord i)
  | _, _ => .badLength

/-- The kind number is one of the 26 request kinds. -/
def knownKind (n : Nat) : Bool := 1 ≤ n && n ≤ 26

/-- The judgement of the port (R174): the kind, then the body's length, then the owner. -/
def RawRequest.read (r : RawRequest) : Reading :=
  if !knownKind r.kind.toNat then .badKind
  else if r.kind.toNat = 12 then
    match countedList r.body with
    | some zs => .owner (askBlockZone zs)
    | none => .badLength
  else if r.kind.toNat = 13 then
    match countedListThen r.body with
    | some (zs, c) => .owner (askUnblockZone zs c)
    | none => .badLength
  else
    match readFields (bodyWidths r.kind.toNat) r.body with
    | some ns => ownerOf r.kind.toNat ns
    | none => .badLength

/-- The answer to a received request. -/
def State.respond (s : State) (r : RawRequest) : Answer :=
  match r.read with
  | .badKind => s.answer .badKind
  | .badLength => s.answer .badLength
  | .owner work => work s

/-- A request that passes the port's checks as RESTART. -/
def RawRequest.isRestart (r : RawRequest) : Bool := r.kind.toNat == 6 && r.body.isEmpty

/-! ### Places and transmitter (R174) -/

/-- A request goes into work in the empty current place, and its reply is made. -/
def State.takeIntoWork (s : State) (r : RawRequest) : State :=
  let a := s.respond r
  { a.state with
    lastReply := some a.reply
    port := { a.state.port with
      current := some { request := r, reply := replyFrame r a.reply, restarts := r.isRestart, phase := .replyMade } } }

/-- The transmitter, when it is free, takes the waiting PORT_BUSY reply, and otherwise the reply made in the current place. -/
def Port.transmit (q : Port) : Port :=
  match q.sending, q.waitingBusy, q.current with
  | none, some r, _ => { q with sending := some { portBusy := true, bytes := replyFrame r (.bare .portBusy) }, waitingBusy := none }
  | none, none, some c =>
    if c.phase = .replyMade then
      { q with sending := some { portBusy := false, bytes := c.reply }, current := some { c with phase := .sending } }
    else q
  | _, _, _ => q

def State.transmit (s : State) : State := { s with port := s.port.transmit }

/-- A received request finds both places full: a PORT_BUSY reply, or nothing while one is waiting. -/
def Port.turnAway (q : Port) (r : RawRequest) : Port :=
  if q.waitingBusy.isNone then { q with waitingBusy := some r, busy := raise16 q.busy } else { q with overflow := raise16 q.overflow }

/-- A received request enters a place or is turned away (R174). -/
def State.receive (s : State) (r : RawRequest) : State :=
  if s.port.current.isNone then (s.takeIntoWork r).transmit
  else if s.port.held.isNone then { s with port := { s.port with held := some r } }
  else State.transmit { s with port := s.port.turnAway r }

/-- The current place has been emptied: a held request moves into it and goes into work (R174). -/
def State.workHeld (s : State) : State :=
  match s.port.held with
  | none => s
  | some r => State.takeIntoWork { s with port := { s.port with held := none } } r

/-- The current place is emptied. -/
def State.emptyCurrent (s : State) : State := { s with port := { s.port with current := none } }

/-! ### The receiver (R173) -/

/-- The receiver goes back to hunting. -/
def Port.hunting (q : Port) : Port := { q with inside := false }

/-- A byte examined while hunting: the lead byte begins a frame, any other is dropped, and so is one with a missing stop bit. -/
def Port.examine (q : Port) (b : Option Byte) : Port := if b = some 0x5B#8 then { q with inside := true } else q

/-- MESSAGE_FRAME_RECEIVED (R173): the last byte of the CRC is received. -/
def execMessageFrameReceived (frame : MessageFrame) (s : State) : Host.Outcome State Fault Refusal :=
  event (fun s =>
    let s := { s with port := s.port.hunting }
    if soundFrame frame then s.receive { kind := frame.kind, tag := frame.tag, body := frame.body }
    else { s with port := { s.port with crc := raise16 s.port.crc } }) s

/-- MESSAGE_GAP (R173): more than 2 ms pass inside a frame; the byte that ends the gap is examined as if hunting. -/
def execMessageGap (next : Option Byte) (s : State) : Host.Outcome State Fault Refusal :=
  event (fun s =>
    if s.port.inside then { s with port := Port.examine { s.port.hunting with gap := raise16 s.port.gap } next } else s) s

/-- MESSAGE_FRAME_START (R173): inside a frame the byte is frame content. -/
def execMessageFrameStart (s : State) : Host.Outcome State Fault Refusal :=
  event (fun s => { s with port := s.port.examine (some 0x5B#8) }) s

/-- STOP_BIT_MISSING (R173): hunting, the byte is dropped and not counted. -/
def execStopBitMissing (s : State) : Host.Outcome State Fault Refusal :=
  event (fun s =>
    if s.port.inside then { s with port := { s.port.hunting with framing := raise16 s.port.framing } } else s) s

/-- BODY_LENGTH_EXCESS (R173): the two length bytes give a body length above 600. -/
def execBodyLengthExcess (length : Nat) (s : State) : Host.Outcome State Fault Refusal :=
  event (fun s =>
    if s.port.inside && Config.maxBody < length then
      { s with port := { s.port.hunting with length := raise16 s.port.length } }
    else s) s

/-! ### The end of a reply, and the restart (R171, R174) -/

/-- The reply of the current place has been sent in full: after the reply to RESTART the restart is pending, and otherwise the
place is emptied and a held request moves into it. -/
def State.finishReply (s : State) : State :=
  match s.port.current with
  | none => s
  | some c =>
    if c.restarts then
      { s with
        controller := { s.controller with restartPending := true }
        port := { s.port with current := some { c with phase := .restarting } } }
    else s.emptyCurrent.workHeld

/-- REPLY_SENT (R174): the transmitter finishes the frame it was sending. -/
def execReplySent (s : State) : Host.Outcome State Fault Refusal :=
  event (fun s =>
    match s.port.sending with
    | none => s
    | some x =>
      let s := { s with port := { s.port with sending := none } }
      (if x.portBusy then s else s.finishReply).transmit) s

/-- The RESTART request ends in the current place, and a held request goes into work after the restart (R171, R179). -/
def State.endRestart (s : State) : State :=
  match s.port.current with
  | none => s
  | some c => if c.phase = .restarting then s.emptyCurrent.workHeld.transmit else s

/-- The warm restart with what it leaves the Message Port to do. -/
def State.restart (s : State) : State := s.warmRestart.endRestart

/-- WARM_RESTART (R171). -/
def execWarmRestart (s : State) : Host.Outcome State Fault Refusal := event State.restart s

/-! ### RESETn (R172) -/

/-- POWER_ON_RESET (R172): RESETn is released and the straps are sampled. -/
def execPowerOnReset (rate1 rate0 : Bool) (s : State) : Host.Outcome State Fault Refusal :=
  .next (State.powerOn rate1 rate0 s.pending)

/-- RESETn is low: every lane and MP_TX idle, ATTN low, nothing received (R172). -/
def State.holdReset (s : State) : State :=
  { s with
    pins := { s.pins with inReset := true }
    links := s.links.map fun l => { l with lane := none }
    port := { s.port with sending := none, attn := false } }

/-- RESETN_ASSERTED (R172). -/
def execResetnAsserted (s : State) : Host.Outcome State Fault Refusal := .next s.holdReset

end Sys2Proof.Machine
end

