-- ==== Sys2Proof/Machine/SequenceClock.lean ====
section
/-! DEFINITION. The Sequence Clock: sample boundaries with slewing, marks, the missing count and the clock state (R43 to R49). -/

namespace Sys2Proof.Machine

/-! ### Sample boundaries (R43, R48) -/

/-- The change of the sample period that begins: the smaller of 4/256 SP and the magnitude of the correction, with its sign (R48). -/
def slewStep (outstanding : Int) : Int := max (-4) (min 4 outstanding)

/-- The clock at a sample boundary (R43, R45, R48). -/
def Clock.boundary (c : Clock) (f : Frequency) : Clock :=
  { c with
    current := c.current + 1, runningRate := f, stretch := slewStep c.outstanding, sinceMark := raise16 c.sinceMark
    outstanding := c.outstanding - slewStep c.outstanding }

/-- The clock's own work at a boundary. -/
def State.advanceClock (s : State) : State := { s with clock := s.clock.boundary s.controller.station.frequency }

/-- A restart whose reply has been sent is made before the boundary (log entry 6). -/
def State.restartIfPending (s : State) : State := if s.controller.restartPending then s.restart else s

/-- The timers that fall at a boundary: links, latches and orders, the wait timer (log entry 4). -/
def State.tickTimers (s : State) : State := s.tickLinks.tickTrips.tickWait

/-- A sample boundary taken whole: the clock, the downstream frames, the timers, and the releases that fall due. -/
def State.boundaryWork (s : State) : State := s.restartIfPending.advanceClock.sendFrames.tickTimers.settle

/-- SAMPLE_BOUNDARY (R43). -/
def execSampleBoundary (s : State) : Host.Outcome State Fault Refusal := event State.boundaryWork s

/-! ### Clock state (R47, R49) -/

/-- The CLOCK_STATE notice of a change from `previous`, with the clock as it stands after it (R49). -/
def Clock.report (c : Clock) (previous : ClockState) (cause : ClockCause) : Report :=
  { subject := .device, detail := .clockState previous c.state cause c.markCount c.atMark c.phaseError }

/-- The clock takes a new value; a change of clock state posts CLOCK_STATE, before the test of the start condition and the OP_DONE
that may bring (R47, R49, R167; log entry 31). -/
def State.changeClock (s : State) (c : Clock) (cause : ClockCause) : State :=
  if c.state = s.clock.state then { s with clock := c }
  else State.settleAfter s (State.testStart (State.post { s with clock := c } (c.report s.clock.state cause)))

/-! ### Marks (R45 to R48) -/

/-- Sample periods per second at a station frequency (R43). -/
def Frequency.perSecond : Frequency → Nat
  | .hz50 => 2400
  | .hz60 => 2880

/-- The time since the previous mark lies between 1 s - 1/4 SP and 1 s + 1/4 SP, in nanoseconds (R46). -/
def oneSecondApart (f : Frequency) (elapsed : Nat) : Bool :=
  ((elapsed : Int) - 1000000000).natAbs * (4 * f.perSecond) ≤ 1000000000

/-- A mark is regular (R46). -/
def Clock.regular (c : Clock) (f : Frequency) (elapsed : Nat) : Bool := c.marked && oneSecondApart f elapsed

/-- The capture of a mark (R45, R46). -/
def Clock.capture (c : Clock) (regular : Bool) (phase : Int) : Clock :=
  { c with
    atMark := c.current, phaseError := phase, markCount := c.markCount + 1, sinceMark := 0, marked := true, missing := 0
    regularRun := if regular then raise 255 c.regularRun else 0 }

/-- The clock state after a mark (R47); `run` is the regular run the mark leaves. -/
def ClockState.afterMark (st : ClockState) (regular : Bool) (run : Nat) : ClockState :=
  match st with
  | .free => if regular && 3 ≤ run then .locked else .free
  | .holdover => if regular && 3 ≤ run then .locked else .holdover
  | .locked => if regular then .locked else .holdover

/-- The clock after a mark: captured, in its new state, with the correction a regular mark in or into LOCKED sets (R48). -/
def Clock.afterMark (c : Clock) (regular : Bool) (phase : Int) : Clock :=
  let d := c.capture regular phase
  let st := c.state.afterMark regular d.regularRun
  { d with state := st, outstanding := if st = .locked then phase else c.outstanding }

/-- MARK (R45). -/
def execMark (elapsed : Nat) (phase : Int) (s : State) : Host.Outcome State Fault Refusal :=
  event (fun s =>
    let regular := s.clock.regular s.controller.station.frequency elapsed
    s.changeClock (s.clock.afterMark regular phase) (if regular then .regularMarks else .irregularMark)) s

/-- The clock after a rise of the missing count: the regular run falls to zero, and HOLDOVER ends in FREE when the count reaches 60,
with no correction outstanding (R46 to R48). -/
def Clock.missed (c : Clock) : Clock :=
  let d := { c with missing := raise 255 c.missing, regularRun := 0 }
  if c.state = .holdover ∧ 60 ≤ d.missing then { d with state := .free, outstanding := 0 } else d

/-- MISSING_COUNT_RISE (R46): it follows a mark. -/
def execMissingCountRise (s : State) : Host.Outcome State Fault Refusal :=
  event (fun s => if s.clock.marked then s.changeClock s.clock.missed .marksMissing else s) s

/-- MARK_TIMEOUT (R47): LOCKED goes to HOLDOVER. -/
def execMarkTimeout (s : State) : Host.Outcome State Fault Refusal :=
  event (fun s =>
    if s.clock.state = .locked then s.changeClock { s.clock with state := .holdover } .markTimeout else s) s

end Sys2Proof.Machine
end

