-- ==== Sys2Proof/Machine/Dispatch.lean ====
section
/-! DEFINITION. One arm per command: each calls the meaning of its row. -/

namespace Sys2Proof.Machine

/-- The effect of a command on everything but the queue. -/
def exec (i : Instr) (s : State) : Host.Outcome State Fault Refusal :=
  match i with
  | .identify clear => Sys2Proof.Machine.execIdentify clear s
  | .fetchNotices rearm => Sys2Proof.Machine.execFetchNotices rearm s
  | .setStation frequency depth markRequired sections => Sys2Proof.Machine.execSetStation frequency depth markRequired sections s
  | .startProtection extension => Sys2Proof.Machine.execStartProtection extension s
  | .stopProtection => Sys2Proof.Machine.execStopProtection s
  | .restart => Sys2Proof.Machine.execRestart s
  | .warmRestart => Sys2Proof.Machine.execWarmRestart s
  | .queryOperation target => Sys2Proof.Machine.execQueryOperation target s
  | .configureBay bay kind sectionNo bus scale polarity alloc => Sys2Proof.Machine.execConfigureBay bay kind sectionNo bus scale polarity alloc s
  | .setService bay target => Sys2Proof.Machine.execSetService bay target s
  | .override bay element value => Sys2Proof.Machine.execOverride bay element value s
  | .readBay bay => Sys2Proof.Machine.execReadBay bay s
  | .blockZone zones => Sys2Proof.Machine.execBlockZone zones s
  | .unblockZone zones check => Sys2Proof.Machine.execUnblockZone zones check s
  | .readZone => Sys2Proof.Machine.execReadZone s
  | .readClock => Sys2Proof.Machine.execReadClock s
  | .openLink bay extension => Sys2Proof.Machine.execOpenLink bay extension s
  | .closeLink bay dormant wake => Sys2Proof.Machine.execCloseLink bay dormant wake s
  | .readLink bay clear => Sys2Proof.Machine.execReadLink bay clear s
  | .reallocate bay alloc => Sys2Proof.Machine.execReallocate bay alloc s
  | .stageSettings values => Sys2Proof.Machine.execStageSettings values s
  | .switchSettings => Sys2Proof.Machine.execSwitchSettings s
  | .switchSettingsCancel => Sys2Proof.Machine.execSwitchSettingsCancel s
  | .readSettings selection => Sys2Proof.Machine.execReadSettings selection s
  | .sendOrder bay kind argument => Sys2Proof.Machine.execSendOrder bay kind argument s
  | .resetTrip target => Sys2Proof.Machine.execResetTrip target s
  | .readRecord selector id => Sys2Proof.Machine.execReadRecord selector id s
  | .releaseRecord id => Sys2Proof.Machine.execReleaseRecord id s
  | .powerOnReset rate1 rate0 => Sys2Proof.Machine.execPowerOnReset rate1 rate0 s
  | .messageFrameReceived frame => Sys2Proof.Machine.execMessageFrameReceived frame s
  | .messageGap next => Sys2Proof.Machine.execMessageGap next s
  | .replySent => Sys2Proof.Machine.execReplySent s
  | .sampleBoundary => Sys2Proof.Machine.execSampleBoundary s
  | .mark elapsed phase => Sys2Proof.Machine.execMark elapsed phase s
  | .missingCountRise => Sys2Proof.Machine.execMissingCountRise s
  | .markTimeout => Sys2Proof.Machine.execMarkTimeout s
  | .frameArrival link bytes => Sys2Proof.Machine.execFrameArrival link bytes s
  | .wakeBringUp link bytes => Sys2Proof.Machine.execWakeBringUp link bytes s
  | .linkActive link bytes => Sys2Proof.Machine.execLinkActive link bytes s
  | .recoveryActive link bytes => Sys2Proof.Machine.execRecoveryActive link bytes s
  | .bringUpFailed link bytes => Sys2Proof.Machine.execBringUpFailed link bytes s
  | .bringUpTimeout link => Sys2Proof.Machine.execBringUpTimeout link s
  | .lockTimeout link => Sys2Proof.Machine.execLockTimeout link s
  | .linkLost link => Sys2Proof.Machine.execLinkLost link s
  | .release => Sys2Proof.Machine.execRelease s
  | .replicaOpen bay element => Sys2Proof.Machine.execReplicaOpen bay element s
  | .isolatorStuck bay element => Sys2Proof.Machine.execIsolatorStuck bay element s
  | .breakerStuck bay => Sys2Proof.Machine.execBreakerStuck bay s
  | .dataLost bay => Sys2Proof.Machine.execDataLost bay s
  | .dataRestored bay => Sys2Proof.Machine.execDataRestored bay s
  | .spanEnd zone marks => Sys2Proof.Machine.execSpanEnd zone marks s
  | .evolvingFault zone normal => Sys2Proof.Machine.execEvolvingFault zone normal s
  | .returnToQuiet zone => Sys2Proof.Machine.execReturnToQuiet zone s
  | .ctSupervision zone ids => Sys2Proof.Machine.execCtSupervision zone ids s
  | .bfCleared bay => Sys2Proof.Machine.execBfCleared bay s
  | .bfExpiry bay seen => Sys2Proof.Machine.execBfExpiry bay seen s
  | .drainComplete link => Sys2Proof.Machine.execDrainComplete link s
  | .settingsSwitched => Sys2Proof.Machine.execSettingsSwitched s
  | .tripUnconfirmed bay latch => Sys2Proof.Machine.execTripUnconfirmed bay latch s
  | .orderDone bay => Sys2Proof.Machine.execOrderDone bay s
  | .orderTimeout bay => Sys2Proof.Machine.execOrderTimeout bay s
  | .startSuccess => Sys2Proof.Machine.execStartSuccess s
  | .startTimeout => Sys2Proof.Machine.execStartTimeout s
  | .resetnAsserted => Sys2Proof.Machine.execResetnAsserted s
  | .messageFrameStart => Sys2Proof.Machine.execMessageFrameStart s
  | .stopBitMissing => Sys2Proof.Machine.execStopBitMissing s
  | .bodyLengthExcess length => Sys2Proof.Machine.execBodyLengthExcess length s

end Sys2Proof.Machine
end

