-- ==== Sys2Proof/Safety.lean ====
section
/-! DEFINITION. What always holds of the KB24's state: the notice queue with ATTN, the settings groups, the trip states and records, the Frame Pool's canonical form; and the laws the spec states of allocations, grants, frames, link operations and latches. -/

namespace Sys2Proof.Machine

/-- The notice queue holds at most 32 notices, and ATTN is asserted only while it is not empty (R176, R178). -/
def Port.sound (q : Port) : Prop := q.notices.length ≤ Config.noticeCapacity ∧ (q.attn = true → q.notices ≠ [])

/-- The active group is valid, and so is a staged group marked valid; a switch is pending only for a valid staged group
(R155, R156, R158). -/
def SettingsStore.sound (t : SettingsStore) : Prop :=
  t.active.valid = true ∧ (t.stagedValid = true → t.staged.valid = true) ∧ (t.switchPending = true → t.stagedValid = true)

/-- A bay that is TIMING or FAILED holds its trip latch; a bay holds no order while either latch is set; an order is reserved only
behind one in flight (R142, R152). -/
def TripState.sound (t : TripState) : Prop :=
  (t.bf ≠ .idle → t.trip.set = true) ∧ (t.latched = true → t.inFlight = none ∧ t.reserved = none) ∧
    (t.reserved ≠ none → t.inFlight ≠ none)

/-- The trip record table holds at most 8 records, and no two held records share an id (R148). -/
def TripUnit.recordsSound (u : TripUnit) : Prop :=
  u.records.length ≤ Config.recordCapacity ∧ (u.records.map TripRecord.id).Nodup

/-- Every bay's trip state and the record table. -/
def TripUnit.sound (u : TripUnit) : Prop := (∀ p, (u.bays.get p).sound) ∧ u.recordsSound

/-- No link holds two frames of one sequence, and its set of frames has the canonical form (R85). -/
def poolSound (t : Table LinkPool) : Prop := ∀ p, framesSorted (t.get p).frames = true

/-- What every command keeps. -/
def State.sound (s : State) : Prop := s.port.sound ∧ s.settings.sound ∧ s.trip.sound ∧ poolSound s.pool

/-! ### The laws of the pool, the links and the latches -/

/-- ALLOC of a configured bay is 3 to 64, as D is at least 2; a bay that is not configured has none, and its link is DOWN (R3, R66,
R78, R91). -/
def allocLaw (b : BayRecord) (l : LinkRecord) : Prop :=
  if b.configured = true then 3 ≤ b.alloc ∧ b.alloc ≤ 64 else b.alloc = 0 ∧ l.state = .down

/-- The grant of a link that is not stalled is next_release + ALLOC - 1; while it is stalled its held span lies above ALLOC and not
above the granted span, which is at most 64 (R86, R88, R94, R95). -/
def grantLaw (next : Seq) (alloc : Nat) (q : LinkPool) : Prop :=
  if q.stalled = true then (alloc : Int) < q.heldSpan next ∧ q.heldSpan next ≤ q.span ∧ q.span ≤ 64
  else q.span = alloc ∧ q.grant = grantFor next alloc

/-- A link holds at most ALLOC frames (R87), no two of one sequence, and each is not behind next_release and not ahead of the grant
limit (R85, R88). -/
def framesLaw (next : Seq) (alloc : Nat) (q : LinkPool) : Prop :=
  q.frames.length ≤ alloc ∧ framesSorted q.frames = true ∧
    ∀ f ∈ q.frames, behind f.sequence next = false ∧ ahead f.sequence q.grant = false

/-- The link is ACTIVE or recovering from a sync loss. -/
def LinkRecord.mayHold (l : LinkRecord) : Bool := l.state == .active || (l.recovery && l.state.bringingUp)

/-- An OPEN operation is BUSY (R81). -/
def LinkRecord.opens (l : LinkRecord) : Bool := l.busy && l.op.kind != .reallocate

/-- Only a link that is ACTIVE or recovering holds frames or is stalled (R90, R94); it is stalled while its REALLOCATE is BUSY (R94,
R95); a bring-up that is no recovery runs under an OPEN operation, which alone has a timer (R66, R67); an ACTIVE link has a last good
sequence (R65, R74). -/
def linkLaw (l : LinkRecord) (q : LinkPool) : Prop :=
  (l.mayHold = false → q.frames = [] ∧ q.stalled = false) ∧
    (l.busy = true ∧ l.op.kind = .reallocate ↔ q.stalled = true) ∧
    (l.opens = true ↔ l.state.bringingUp = true ∧ l.recovery = false) ∧
    (l.timer.isSome = true → l.opens = true) ∧ (l.state = .active → l.lastGood.isSome = true)

/-- No bay holds a latch or a breaker-failure record that is TIMING or FAILED unless protection is RUNNING and the bay is not
OUT_OF_SERVICE (R139, R142); such a record has its start cause (R142, R144). -/
def latchLaw (v : Protection) (b : BayRecord) (t : TripState) : Prop :=
  (t.latched = true ∨ t.bf ≠ .idle → v = .running ∧ b.service ≠ .outOfService) ∧ (t.bf ≠ .idle → t.cause.isSome = true)

/-- The laws of one bay's allocation, grant, frames and link. -/
def poolLaws (next : Seq) (b : BayRecord) (l : LinkRecord) (q : LinkPool) : Prop :=
  allocLaw b l ∧ grantLaw next b.alloc q ∧ framesLaw next b.alloc q ∧ linkLaw l q

/-- The laws of every bay; D is 2 to 12 (R165), and the configured bays' allocations are at most 512 in sum (R87). -/
def State.lawful (s : State) : Prop :=
  (2 ≤ s.depth ∧ s.depth ≤ 12) ∧ budgetUsed s.bays ≤ Config.slotCount ∧
    ∀ p, poolLaws s.next (s.bay p) (s.link p) (s.linkPool p) ∧ latchLaw s.controller.protection (s.bay p) (s.tripState p)

/-- The machine cannot stop at this state: its next step answers a next state. -/
def State.live (s : State) : Prop := ∃ t, step s = .next t

end Sys2Proof.Machine
end

