-- ==== Sys2Proof/Certificates/Slice0/Obligations.lean ====
section
/-! DEFINITION. The statements for the provers, in the order of the blocks of the spec. -/

namespace Sys2Proof.Claims

open Sys2Proof Sys2Proof.Machine

/-- RESETn is not low, so the part takes commands (R172). -/
abbrev powered (s : State) : Prop := s.pins.inReset = false

/-- The state with the reply of a host request handed to the Message Port. -/
def answered (s : State) (c : ResultCode) (f : ReplyFields := .nothing) : State :=
  { s with lastReply := some { code := c, fields := f } }

/-- A count that rises by one and holds at 65535. -/
abbrev upTo16 (n : Nat) : Nat := min (n + 1) 65535

/-- The elements that may be overridden: a feeder's isolators, another bay's breaker (R2). -/
abbrev mayOverride (k : BayKind) (e : Element) : Prop := (k = .feeder ∧ e ≠ .breaker) ∨ (k ≠ .feeder ∧ e = .breaker)

/-- The allocations of the configured bays of a list, added up (R87). -/
def allocations (bays : Table BayRecord) (ps : List Pos) : Nat :=
  ((ps.filter fun p => (bays.get p).configured).map fun p => (bays.get p).alloc).sum

/-- The end of a flight: the reserved order, if any, moves into flight with a fresh timer (R152). -/
def landed (s : State) (p : Pos) : State :=
  s.modTrip p fun t =>
    { t with inFlight := t.reserved.map fun o => { order := o, timer := s.active.echoSpan }, reserved := none }

/-- A link's bring-up under an operation ends TIMEOUT (R72). -/
def timedOut (s : State) (p : Pos) : State :=
  (s.modLink p fun l => { l with state := .down, timer := none, good := 0, lane := none }).endLinkOp p .timeout

/-- A trip state with both latches cleared, with their confirmations and echo timers, and a FAILED breaker-failure state back at IDLE with
its remaining, clear count and start cause cleared (R15, R141). -/
def unlatched (t : TripState) : TripState :=
  let clear (l : Latch) : Latch := { l with set := false, confirmed := false, echo := none }
  if t.bf = .failed then
    { t with trip := clear t.trip, transfer := clear t.transfer, bf := .idle, remaining := 0, clear := 0, cause := none }
  else { t with trip := clear t.trip, transfer := clear t.transfer }

/-- A bay's latches are cleared, and the trip flags examined: a flag none of whose target bays holds its trip latch is dropped (R138). -/
def tripReset (s : State) (p : Pos) : State :=
  let u := s.modTrip p unlatched
  { u with zones := s.zones.map fun z => { z with flag := z.flag.filter fun ps => ps.any fun x => (u.tripState x).trip.set } }

/-- The bay's last currents are absent, or one of them is at or above the active IBF (R141). -/
def flows (s : State) (p : Pos) : Bool :=
  match (s.bay p).last with
  | none => true
  | some l => [l.currents.l1, l.currents.l2, l.currents.l3].any fun x => decide (s.active.ibf ≤ x.natAbs)

/-- A start ends in a protection state with a result, and OP_DONE is posted (R167, R168, R170). -/
def startEnded (s : State) (v : Protection) (r : StartResult) : State :=
  State.post
    { s with
      controller :=
        { s.controller with
          waitTimer := none, protection := v, op := { s.controller.op with state := .done, result := some r } } }
    { subject := .device, detail := .startDone r }

/-- A change of clock state: CLOCK_STATE is posted (R49), then the start condition is tested, and where it holds the start succeeds, with
the releases that makes due (R53, R167). -/
def clockChanged (s : State) (c : Clock) (cause : ClockCause) : State :=
  let posted := State.post { s with clock := c }
    { subject := .device, detail := .clockState s.clock.state c.state cause c.markCount c.atMark c.phaseError }
  if s.controller.protection = .starting ∧ (∀ p, (s.bay p).service = .inService → (s.link p).state = .active) ∧
      (s.controller.station.markRequired = true → c.state = .locked) then
    (startEnded { posted with zones := [], check := none } .running .ok).settle
  else posted

/-- The orders of a bay that a cancellation takes, the one in flight first, as their notices (R153). -/
def cancellations (s : State) (p : Pos) (which : OrderKind → Bool) (cause : CancelCause) : List Report :=
  (((((s.tripState p).inFlight.map Flight.order).toList ++ (s.tripState p).reserved.toList).filter fun o => which o.kind).map
    fun o => { subject := .bay p, detail := .orderCancelled o.kind o.tag cause })

/-- Sync loss of a link in ACTIVE (R74, R77). -/
def syncLost (s : State) (p : Pos) : State :=
  let counted := (s.modLink p fun l => { l with sinceGood := upTo16 l.sinceGood }).countError p .syncLoss
  let reported :=
    if (s.bay p).service = .maintenance then counted
    else counted.post { subject := .link p, detail := .linkLost (s.link p).lastGood }
  reported.modLink p fun l => { l with state := .hunt, good := 0, lastGood := none, recovery := true }

/-- The classifier's quiet count and its return to QUIET at a release at which Ir is below IRRESET on all phases, or is not (R124). -/
def quietCounted (g : Settings) (below : Bool) (c : ClassifierState) : ClassifierState :=
  let n := if below then min (c.quiet + 1) 4800 else 0
  if g.quietSpan ≤ n then { c with state := .quiet, quiet := 0, evolving := ⟨0, 0, 0⟩ } else { c with quiet := n }

/-- The last results of a phase from its mark and its window after the append (R105, R106, R108). -/
def phaseLast (threshold id ir : Nat) (normal mark : Bool) (win : List Bool) : PhaseResult :=
  let n := (win.filter fun b => b).length
  { id := id, ir := ir, normal := normal, mark := mark, count := n, length := win.length, met := decide (threshold ≤ n)
    operating := mark && decide (threshold ≤ n) }

/-- Breaker-failure timing starts where the state is IDLE (R142). -/
def timingStarted (s : State) (p : Pos) (c : StartCause) : State :=
  s.modTrip p fun t =>
    if t.bf = .idle then { t with bf := .timing, remaining := s.active.bfTime, clear := 0, cause := some c } else t

/-- A record is offered to the table, and its notice with the notices that follow are posted (R148). -/
def recorded (s : State) (make : Nat → TripRecord) (breakerFailure : Bool) (q : Seq) (r : Option Nat → Report) : State :=
  let o := s.trip.offer make breakerFailure q
  State.postAll { s with trip := o.unit } (r o.id :: o.follow)

/-- The zones whose connected bays a back-trip of bay p takes, from the picture (R145). -/
def backTrip (s : State) (p : Pos) : List EffZone :=
  match s.replica.picture with
  | none => []
  | some pic =>
    match (s.bay p).kind with
    | .feeder => (pic.zones.find? fun z => z.members.any fun m => m.bay == p).toList
    | .coupler =>
      pic.zones.filter fun z => z.zones.contains (zoneA (s.bay p).sectionNo) || z.zones.contains (zoneB (s.bay p).sectionNo)
    | .sectionBay => pic.zones.filter fun z => z.zones.contains (zoneOne (s.bay p).bus) || z.zones.contains (zoneTwo (s.bay p).bus)

/-- The bays of those zones whose trip latch is clear, in ascending bay number, each once (R145). -/
def backTripped (s : State) (p : Pos) : List Pos :=
  allPos.filter fun x => ((backTrip s p).any fun z => (connectedBays s.bays z.zones).contains x) && !(s.tripState x).trip.set

/-- Why the breaker has failed, from the currents of the release alone (R144). -/
def reasonsFailed (s : State) (p : Pos) (seen : Option (PerPhase Int)) : List FailureReason :=
  (if seen = none then [.absent] else []) ++
    (if (seen.any fun i => [i.l1, i.l2, i.l3].any fun x => decide (s.active.ibf ≤ x.natAbs)) = true then [.current] else []) ++
    (if (s.bay p).effective .breaker = .closed then [.breakerClosed] else [])

/-- The named outcomes of an arrival that a measured frame can have: it is the next good frame of a link in MEASURE. -/
def measuredFrame (s : State) (p : Pos) (bytes : List Byte) (f : StoredFrame) : Prop :=
  classify p bytes = .good f ∧ (s.link p).state = .measure ∧ (s.link p).lastGood = some (f.sequence - 1)

end Sys2Proof.Claims

open Sys2Proof Sys2Proof.Machine Sys2Proof.Claims

/-! ### The queue, the resets, and what always holds -/

/-- A step is the command at the front of the queue, run on the state with the queue's rest. -/
def Obligations.StepRunsFrontCommand : Prop :=
  ∀ (c : Instr) (rest : List Instr) (s : State), s.pending = c :: rest → step s = exec c { s with pending := rest }

/-- On an empty queue the block idles: the model's choice, log entry 10. -/
def Obligations.EmptyQueueIdles : Prop := ∀ s : State, s.pending = [] → step s = .next s

/-- Each command answers a next state from every state. That no rule names a condition that stops the part, so that Fault has no
constructor and no meaning refuses, is the model's reading: log entry 22. -/
def Obligations.EveryCommandCompletes : Prop := ∀ (c : Instr) (s : State), ∃ t, exec c s = .next t

/-- What always holds of the state is kept by every step: the queue with ATTN, the settings groups, the trip states and records, the pool's
form; and the laws of allocations, grants, stored frames, link operations and latches (R65, R81, R85, R87, R88, R90, R94, R139, R165). -/
def Obligations.EveryStepKeepsSound : Prop :=
  (∀ s t : State, s.sound → step s = .next t → t.sound) ∧ ∀ s t : State, s.lawful → step s = .next t → t.lawful

/-- What always holds of the state, and the laws of allocations, grants, frames, link operations and latches, hold after power-on reset. -/
def Obligations.ResetIsSound : Prop := State.reset.sound ∧ State.reset.lawful

/-- RESETn low, and the release of RESETn: every block at its power-on values (R22, R42, R60, R84, R97, R117, R132, R154, R163, R172, R178,
R179), the commands that wait kept.
While RESETn is low no other command has an effect: log entry 21. The straps given as operands are log entry 5. The last reply none, the
running period's change of length 0, a bus zone's effective zone none, the latch sequence 0 and the wake mark no are log entry 1. -/
def Obligations.ResetnAndPowerOnReset : Prop :=
  (∀ s : State, exec .resetnAsserted s = .next
    { s with
      pins := { s.pins with inReset := true }, links := s.links.map fun l => { l with lane := none }
      port := { s.port with sending := none, attn := false } }) ∧
  (∀ (c : Instr) (s : State), s.pins.inReset = true → (∀ a b, c ≠ .powerOnReset a b) → c ≠ .resetnAsserted →
    exec c s = .next s) ∧
  ∀ (a b : Bool) (s : State),
    let unread : ElementRecord := { contact := .unread, derived := .closed, debounce := 0, travel := 0, stuck := false, forcing := .none }
    let clear : Latch := { set := false, confirmed := false, echo := none, sequence := 0 }
    let defaults : Settings :=
      { idmin := 1200, slope := 32, slopeX := 52, w := 16, m := 10, czIdmin := 1000, czSlope := 16, czM := 8, onsetStep := 2000
        onsetSpan := 6, irreset := 500, quietSpan := 240, ctsLevel := 100, ctsSpan := 4800, ibf := 200, bfTime := 360
        openDebounce := 24, travelLimit := 24000, echoSpan := 48 }
    exec (.powerOnReset a b) s = .next
      { pending := s.pending
        pins := { inReset := false, rate1 := a, rate0 := b }
        clock :=
          { state := .free, current := 0, runningRate := .hz50, stretch := 0, marked := false, markCount := 0, atMark := 0
            phaseError := 0, sinceMark := 65535, regularRun := 0, missing := 0, outstanding := 0 }
        releaseUnit := { next := 0, blockCounter := 0 }
        controller :=
          { protection := .halted, station := { frequency := .hz50, depth := 4, markRequired := false, twoSections := false }
            op := { started := false, state := .idle, result := none }, waitTimer := none, restartPending := false }
        bays := .replicate
          { configured := false, kind := .feeder, sectionNo := .one, bus := .a, scale := 1024, polarity := .normal, alloc := 0
            service := .outOfService, isolatorA := unread, isolatorB := unread, breaker := unread, last := none, missingRun := 0
            presentRun := 0, lastPresent := none, data := false, testSeen := false, bfiPrevious := false }
        replica :=
          { busZones := [{ zone := .a1, host := false, cts := false, effective := none, reportedBlocked := false },
              { zone := .b1, host := false, cts := false, effective := none, reportedBlocked := false }]
            checkCts := false, checkReported := false, picture := none, recompute := false }
        links := .replicate
          { state := .down, recovery := false, wakeOption := false, activitySeen := false, extension := 0, timer := none, good := 0
            lastGood := none, sinceGood := 0, lagMin := none, lagMax := none
            errors := { crc := 0, address := 0, late := 0, duplicate := 0, overrun := 0, syncLoss := 0, suppressed := 0 }
            op := { kind := .none, state := .idle, result := none, wake := false }, lane := none }
        pool := .replicate { span := 0, grant := 65535, stalled := false, frames := [] }
        zones := [], check := none
        trip :=
          { bays := .replicate
              { trip := clear, transfer := clear, bf := .idle, remaining := 0, clear := 0, cause := none, inFlight := none
                reserved := none, lastTag := 0 }
            records := [], nextId := 0, lost := 0 }
        settings :=
          { active := defaults, staged := defaults, stagedValid := false, firstInvalid := none, switchPending := false, passed := 0
            lastReason := none }
        port :=
          { rate := if a then (if b then 2000000 else 921600) else (if b then 460800 else 115200), inside := false, framing := 0
            length := 0, gap := 0, crc := 0, busy := 0, overflow := 0, current := none, held := none, waitingBusy := none
            sending := none, notices := [], lostNotices := 0, attn := false, armed := true }
        lastReply := none }

/-! ### Message Port -/

/-- IDENTIFY (R179): the reply's values, and the six counters cleared after they have been taken where clear is yes. -/
def Obligations.IdentifyRepliesAndClears : Prop :=
  ∀ (clear : Nat) (s : State), powered s → exec (.identify clear) s = .next
    (if clear = 0 ∨ clear = 1 then
      answered
        (if clear = 1 then
          { s with port := { s.port with framing := 0, length := 0, gap := 0, crc := 0, busy := 0, overflow := 0 } }
         else s) .ok
        (.identity s.port.rate s.port.framing s.port.length s.port.gap s.port.crc s.port.busy s.port.overflow
          s.port.lostNotices s.controller.protection)
     else answered s .badValue)

/-- Posting (R51, R176, R178): a notice with the current sequence joins a queue of fewer than 32, raising ATTN where armed, or is
dropped and counted. FETCH_NOTICES (R177, R178): up to eight leave the head, ATTN and armed follow, the lost-notice counter is cleared. -/
def Obligations.NoticesJoinAndAreFetched : Prop :=
  (∀ (s : State) (r : Report), s.post r =
    { s with port :=
      if s.port.notices.length < 32 then
        { s.port with
          notices := s.port.notices ++ [{ subject := r.subject, detail := r.detail, postedAt := s.clock.current }]
          attn := s.port.attn || s.port.armed, armed := false }
      else { s.port with lostNotices := upTo16 s.port.lostNotices } }) ∧
  (∀ (rearm : Nat) (s : State), powered s → exec (.fetchNotices rearm) s = .next
    (if rearm = 0 ∨ rearm = 1 then
      answered
        { s with port :=
          { s.port with
            notices := s.port.notices.drop 8, lostNotices := 0
            attn := !(s.port.notices.drop 8).isEmpty && (s.port.attn || rearm == 1)
            armed := if rearm = 1 then (s.port.notices.drop 8).isEmpty else s.port.armed } } .ok
        (.notices (s.port.notices.take 8) (s.port.notices.drop 8).length s.port.lostNotices)
     else answered s .badValue))

/-- The receiver's events (R173): MESSAGE_FRAME_START, STOP_BIT_MISSING, BODY_LENGTH_EXCESS, MESSAGE_GAP. -/
def Obligations.ReceiverEvents : Prop :=
  ∀ s : State, powered s →
    exec .messageFrameStart s = .next { s with port := { s.port with inside := true } } ∧
    exec .stopBitMissing s = .next
      (if s.port.inside then { s with port := { s.port with inside := false, framing := upTo16 s.port.framing } } else s) ∧
    (∀ n, 600 < n → exec (.bodyLengthExcess n) s = .next
      (if s.port.inside then { s with port := { s.port with inside := false, length := upTo16 s.port.length } } else s)) ∧
    ∀ next : Option Byte, exec (.messageGap next) s = .next
      (if s.port.inside then
        { s with port := { s.port with inside := decide (next = some 0x5B#8), gap := upTo16 s.port.gap } }
       else s)

/-- A complete message frame (R173, R174): discarded and counted when its CRC fails, otherwise into the current place, the held
place, a waiting PORT_BUSY reply, or discarded and counted. -/
def Obligations.FrameReceivedEntersAPlace : Prop :=
  ∀ (f : MessageFrame) (s : State), powered s →
    let hunting : State := { s with port := { s.port with inside := false } }
    let r : RawRequest := { kind := f.kind, tag := f.tag, body := f.body }
    exec (.messageFrameReceived f) s = .next
      (if f.crc ≠ crc16 (byte2 f.body.length ++ [f.kind, f.tag] ++ f.body) then
        { hunting with port := { hunting.port with crc := upTo16 s.port.crc } }
       else if s.port.current = none then (hunting.takeIntoWork r).transmit
       else if s.port.held = none then { hunting with port := { hunting.port with held := some r } }
       else if s.port.waitingBusy = none then
        State.transmit
          { hunting with port := { hunting.port with waitingBusy := some r, busy := upTo16 s.port.busy } }
       else State.transmit { hunting with port := { hunting.port with overflow := upTo16 s.port.overflow } })

/-- A request taken into work (R174, R175): its owner's work is done, and its reply frame stands in the current place. A reply frame's
bytes (R175, R181), and the numbers of the result codes.
That the owner's work is one with the taking is log entry 20, the fields' bytes log entry 8. -/
def Obligations.RequestInWorkHasItsReply : Prop :=
  (∀ (s : State) (r : RawRequest), s.takeIntoWork r =
    { (s.respond r).state with
      lastReply := some (s.respond r).reply
      port :=
        { (s.respond r).state.port with
          current := some
            { request := r, reply := replyFrame r (s.respond r).reply, restarts := r.kind.toNat == 6 && r.body.isEmpty
              phase := .replyMade } } }) ∧
  ((∀ (r : RawRequest) (a : Reply),
    let content : List Byte :=
      byte2 (1 + a.fields.bytes.length) ++ [r.kind ||| 0x80#8, r.tag, BitVec.ofNat 8 a.code.wireNumber] ++ a.fields.bytes
    replyFrame r a = [0x5B#8] ++ content ++ byte2 (crc16 content).toNat) ∧
  [ResultCode.ok, .accepted, .sent, .reserved, .busy, .portBusy, .badState, .badKind, .badLength, .badValue, .notConfigured,
    .notDead, .conflict, .noPool, .belowDepth, .bfRunning, .tripLatched, .currentFlowing, .linkNotActive, .noStaged, .pending,
    .noRecord].map ResultCode.wireNumber = List.range 22)

/-- The port's own judgement (R174): a kind outside 1..26 is BAD_KIND; a body that a fixed-length kind does not take is BAD_LENGTH;
a list whose count does not match, or a body too short for the count and the fields beside the list, is BAD_LENGTH; nothing is changed. -/
def Obligations.PortRefusesBadRequests : Prop :=
  ∀ (s : State) (r : RawRequest),
    (r.kind.toNat < 1 ∨ 26 < r.kind.toNat → s.respond r = { state := s, reply := { code := .badKind, fields := .nothing } }) ∧
    (1 ≤ r.kind.toNat → r.kind.toNat ≤ 26 → r.kind.toNat ≠ 12 → r.kind.toNat ≠ 13 →
      r.body.length ≠ (bodyWidths r.kind.toNat).sum →
      s.respond r = { state := s, reply := { code := .badLength, fields := .nothing } }) ∧
    (∀ n bs, r.kind.toNat = 12 → r.body = n :: bs → bs.length ≠ n.toNat →
      s.respond r = { state := s, reply := { code := .badLength, fields := .nothing } }) ∧
    (∀ n bs c, r.kind.toNat = 13 → r.body = n :: (bs ++ [c]) → bs.length ≠ n.toNat →
      s.respond r = { state := s, reply := { code := .badLength, fields := .nothing } }) ∧
    ((r.kind.toNat = 12 ∧ r.body.length < 1) ∨ (r.kind.toNat = 13 ∧ r.body.length < 2) →
      s.respond r = { state := s, reply := { code := .badLength, fields := .nothing } })

/-- REPLY_SENT (R171, R174), and what the free transmitter takes next.
That a flag is held between the end of RESTART's reply and the restart is log entry 6; that a held request's work is one with its
taking is log entry 20. -/
def Obligations.ReplySentFreesItsPlace : Prop :=
  (∀ s : State, powered s →
    let free : State := { s with port := { s.port with sending := none } }
    exec .replySent s = .next
      (match s.port.sending with
       | none => s
       | some x =>
         State.transmit
          (if x.portBusy then free
           else match s.port.current with
            | none => free
            | some c =>
              if c.restarts then
                { free with
                  controller := { s.controller with restartPending := true }
                  port := { free.port with current := some { c with phase := .restarting } } }
              else match s.port.held with
                | none => { free with port := { free.port with current := none } }
                | some r => State.takeIntoWork { free with port := { free.port with current := none, held := none } } r))) ∧
  ∀ q : Port,
    (q.sending ≠ none → q.transmit = q) ∧
    (∀ r, q.sending = none → q.waitingBusy = some r → q.transmit =
      { q with
        sending := some { portBusy := true, bytes := replyFrame r { code := .portBusy, fields := .nothing } }
        waitingBusy := none }) ∧
    ∀ c, q.sending = none → q.waitingBusy = none → q.current = some c → c.phase = .replyMade → q.transmit =
      { q with sending := some { portBusy := false, bytes := c.reply }, current := some { c with phase := .sending } }

/-- Every well-formed request other than RESTART, written as its kind number and body (R181), is read back by the port and answered
as its own row answers it. That
a request given as its row is answered like one on the wire is log entry 20. -/
def Obligations.WireCarriesEveryRequest : Prop :=
  ∀ (i : Instr) (k : Nat) (body : List Byte) (tag : Byte) (s : State), i.wellFormed = true → i ≠ .restart →
    requestBody i = some (k, body) →
    exec i s = request (fun s => s.respond { kind := BitVec.ofNat 8 k, tag := tag, body := body }) s

/-! ### Protection Controller -/

/-- SET_STATION (R165): the checks in order, then the four parameters at once.
Releases made due by a change of D come at once: log entry 11. Which parameter BAD_VALUE names where several are outside their lists is
log entry 15. -/
def Obligations.SetStationWritesFour : Prop :=
  (∀ (r : ZoneReplica) (two : Bool), r.withSections two =
    if two = r.busZones.any (fun z => z.zone == .a2) then r
    else if two then
      { r with
        recompute := true
        busZones := r.busZones ++
          [{ zone := .a2, host := false, cts := false, effective := none, reportedBlocked := false },
           { zone := .b2, host := false, cts := false, effective := none, reportedBlocked := false }] }
    else { r with recompute := true, busZones := r.busZones.filter fun z => decide (z.zone = .a1 ∨ z.zone = .b1) }) ∧
  (∀ s : State,
    let wrong (p : Pos) : Prop :=
      (s.bay p).configured = true ∧ ((s.bay p).kind = .sectionBay ∨ ((s.bay p).kind ≠ .sectionBay ∧ (s.bay p).sectionNo = .two))
    (s.misplaced = none ↔ ∀ p, ¬ wrong p) ∧ ∀ p, s.misplaced = some p → wrong p ∧ ∀ q, q < p → ¬ wrong q) ∧
  ∀ (f d m x : Nat) (s : State), powered s →
    let station : Station :=
      { frequency := if f = 60 then .hz60 else .hz50, depth := d, markRequired := m == 1, twoSections := x == 2 }
    let written : State :=
      { s with
        controller := { s.controller with station := station }
        replica := s.replica.withSections (x == 2) }
    exec (.setStation f d m x) s = .next
      (if f ≠ 50 ∧ f ≠ 60 then answered s .badValue (.field .frequency)
       else if d < 2 ∨ 12 < d then answered s .badValue (.field .depth)
       else if 1 < m then answered s .badValue (.field .markRequired)
       else if x ≠ 1 ∧ x ≠ 2 then answered s .badValue (.field .sections)
       else if s.controller.protection ≠ .halted ∨ s.links.any (fun l => l.state.transmits) = true then answered s .badState
       else match (if x = 1 then s.misplaced else none) with
         | some p => answered s .conflict (.misplaced p)
         | none => answered (if d = s.depth then written else written.settle) .ok (.station station))

/-- START_PROTECTION (R166).
Releases made due by the start come at once: log entry 11. -/
def Obligations.StartProtectionBegins : Prop :=
  ∀ (e : Nat) (s : State), powered s →
    let starting : State :=
      { s with
        controller :=
          { s.controller with
            protection := .starting, op := { started := true, state := .busy, result := none }
            waitTimer := some (2400 + e * 240) } }
    let ended : DeviceOp := { started := true, state := .done, result := some .noFeeder }
    exec (.startProtection e) s = .next
      (if 255 < e then answered s .badValue
       else if s.controller.protection ≠ .halted then answered s .badState
       else if s.bays.any (fun b => b.configured && b.service == .inService && b.kind == .feeder) = true then
        answered (if starting.startCondition then starting.succeedStart else starting).settle .accepted
          (.deviceOp { started := true, state := .busy, result := none })
       else
        answered
          (State.post { s with controller := { s.controller with op := ended } }
            { subject := .device, detail := .startDone .noFeeder })
          .accepted (.deviceOp ended))

/-- START_SUCCESS and START_TIMEOUT (R167, R168): the two ends of a start.
The rows taken singly are log entry 3, releases made due at once log entry 11. -/
def Obligations.StartEnds : Prop :=
  ∀ s : State, powered s → s.controller.protection = .starting →
    ((∀ p, (s.bay p).service = .inService → (s.link p).state = .active) →
      (s.controller.station.markRequired = true → s.clock.state = .locked) →
      exec .startSuccess s = .next
        (State.settle (State.post
          { s with
            zones := [], check := none
            controller :=
              { s.controller with
                waitTimer := none, protection := .running
                op := { s.controller.op with state := .done, result := some .ok } } }
          { subject := .device, detail := .startDone .ok }))) ∧
    (s.controller.waitTimer = some 1 →
      let unmet : StartResult :=
        .notMet (allPos.filter fun p => (s.bay p).service == .inService && (s.link p).state != .active)
          (s.controller.station.markRequired && s.clock.state != .locked)
      exec .startTimeout s = .next
        (State.settle (State.post
          { s with
            controller :=
              { s.controller with
                waitTimer := none, protection := .halted
                op := { s.controller.op with state := .done, result := some unmet } } }
          { subject := .device, detail := .startDone unmet })))

/-- STOP_PROTECTION in each protection state (R168, R169).
Releases made due by the stop come at once: log entry 11. -/
def Obligations.StopProtectionByState : Prop :=
  ∀ s : State, powered s →
    (s.controller.protection = .halted → exec .stopProtection s = .next (answered s .badState)) ∧
    (s.controller.protection = .starting → exec .stopProtection s = .next
      (answered
        (State.settle (State.post
          { s with
            controller :=
              { s.controller with
                waitTimer := none, protection := .halted
                op := { s.controller.op with state := .done, result := some .aborted } } }
          { subject := .device, detail := .startDone .aborted })) .ok)) ∧
    (s.controller.protection = .running → exec .stopProtection s = .next
      (if s.trip.bays.any (fun t => t.bf == .timing) = true then answered s .bfRunning
       else if s.trip.bays.any (fun t => t.trip.set || t.transfer.set) = true then answered s .tripLatched
       else
        answered
          (State.settle
            { s with
              zones := [], check := none
              controller := { s.controller with protection := .halted }
              trip := { s.trip with bays := s.trip.bays.map fun t =>
                if t.bf = .failed then { t with bf := .idle, remaining := 0, clear := 0, cause := none } else t } }) .ok))

/-- RESTART and WARM_RESTART (R171): the reply first; then every block at its warm-restart values, with what the tables keep (R22, R42,
R60, R84, R97, R154, R163, R179), and the RESTART request, if it came over the port, ends in the current place, the held request going
into work (R174, R179). The interval between the two is the model's choice, log entry 6; the latch sequence 0, the bus zone's effective
zone none and the wake mark no after the restart are log entry 1, and the held request's work done as one with its taking is log entry 20. -/
def Obligations.RestartThenWarmRestart : Prop :=
  (∀ s : State, powered s →
    exec .restart s = .next (answered { s with controller := { s.controller with restartPending := true } } .ok)) ∧
  (∀ s : State, powered s →
    let unread (e : ElementRecord) : ElementRecord :=
      { contact := .unread, derived := .closed, debounce := 0, travel := 0, stuck := false, forcing := e.forcing }
    let clear : Latch := { set := false, confirmed := false, echo := none, sequence := 0 }
    exec .warmRestart s = .next (State.endRestart
      { s with
        releaseUnit := { next := s.clock.current, blockCounter := 0 }
        controller :=
          { s.controller with
            protection := .halted, op := { started := false, state := .idle, result := none }, waitTimer := none
            restartPending := false }
        bays := s.bays.map fun b =>
          { b with
            isolatorA := unread b.isolatorA, isolatorB := unread b.isolatorB, breaker := unread b.breaker, last := none
            missingRun := 0, presentRun := 0, lastPresent := none, data := false, testSeen := false, bfiPrevious := false }
        replica :=
          { busZones := s.replica.busZones.map fun z =>
              { zone := z.zone, host := false, cts := false, effective := none, reportedBlocked := false }
            checkCts := false, checkReported := false, picture := none, recompute := false }
        links := .replicate
          { state := .down, recovery := false, wakeOption := false, activitySeen := false, extension := 0, timer := none, good := 0
            lastGood := none, sinceGood := 0, lagMin := none, lagMax := none
            errors := { crc := 0, address := 0, late := 0, duplicate := 0, overrun := 0, syncLoss := 0, suppressed := 0 }
            op := { kind := .none, state := .idle, result := none, wake := false }, lane := none }
        pool := s.bays.map fun b =>
          { span := b.alloc, grant := s.clock.current + seqOf b.alloc - 1, stalled := false, frames := [] }
        zones := [], check := none
        trip :=
          { bays := s.trip.bays.map fun t =>
              { trip := clear, transfer := clear, bf := .idle, remaining := 0, clear := 0, cause := none, inFlight := none
                reserved := none, lastTag := t.lastTag }
            records := [], nextId := 0, lost := 0 }
        settings := { s.settings with switchPending := false, passed := 0, lastReason := none }
        port := { s.port with notices := [], lostNotices := 0, attn := false, armed := true } })) ∧
  ∀ t : State,
    ((∀ c, t.port.current = some c → c.phase ≠ .restarting) → t.endRestart = t) ∧
    ∀ c, t.port.current = some c → c.phase = .restarting → t.endRestart = State.transmit
      (match t.port.held with
       | none => { t with port := { t.port with current := none } }
       | some r => State.takeIntoWork { t with port := { t.port with current := none, held := none } } r)

/-- The reading requests change nothing but the reply they hand over: QUERY_OPERATION, READ_CLOCK, READ_BAY, READ_ZONE,
READ_SETTINGS, READ_RECORD and READ_LINK, which with clear yes zeroes its counters after the reply's values are taken. READ_ZONE's fields (R115,
R116, R118). Operands outside their lists are log entry 13, the window count after a swap log entry 23, the blocked state of the last
release log entry 28, a record-id byte beside OLDEST log entry 34. -/
def Obligations.ReadsChangeOnlyTheReply : Prop :=
  (∀ s : State, s.zoneFields =
    let shown (windows : PerPhase (List Bool)) (r : ZoneResult) : ZoneResult :=
      let counted (x : PhaseResult) (w : List Bool) : PhaseResult :=
        { x with count := (w.filter fun b => b).length, length := w.length }
      { r with phases :=
        ⟨counted r.phases.l1 windows.l1, counted r.phases.l2 windows.l2, counted r.phases.l3 windows.l3⟩ }
    match s.replica.picture with
    | none => .zones s.controller.protection none s.settings.active [] none
    | some pic => .zones s.controller.protection (some pic.sequence) s.settings.active
      (pic.zones.map fun z =>
        let st := (s.zones.find? fun y => y.name == z.name).getD
          { name := z.name, eval := { windows := ⟨[], [], []⟩, history := ⟨[], [], []⟩, last := none }
            classifier := { state := .quiet, span := 0, onsetMarks := ⟨0, 0, 0⟩, evolving := ⟨0, 0, 0⟩, quiet := 0 }
            cts := { counter := ⟨0, 0, 0⟩, reported := ⟨false, false, false⟩ }, flag := none }
        { zone := z, live := !z.members.isEmpty, blocked := z.blocked, classifier := st.classifier.state
          slope := if st.classifier.state = .external then s.settings.active.slopeX else s.settings.active.slope
          threshold := if st.classifier.state = .external then s.settings.active.w else s.settings.active.m
          result := st.eval.last.map (shown st.eval.windows)
          historyLength := ⟨st.eval.history.l1.length, st.eval.history.l2.length, st.eval.history.l3.length⟩
          flag := st.flag.isSome })
      (some
        { zone := pic.check, live := !pic.check.members.isEmpty, blocked := pic.check.blocked
          result := s.check.bind fun k => k.last.map (shown k.windows) })) ∧
  (∀ s : State, s.recordFields none = .records none (s.trip.records.map TripRecord.id) s.trip.nextId s.trip.lost
    ((allPos.filter fun p => (s.bay p).configured).map s.tripSummary)) ∧
  ∀ s : State, powered s →
    exec (.queryOperation 0) s = .next (answered s .ok
      (.deviceStatus s.controller.op s.controller.protection s.controller.waitTimer s.startCondition s.notActive
        (s.clock.state == .locked))) ∧
    (∀ n, n ≠ 0 → bayOf n = none → exec (.queryOperation n) s = .next (answered s .badValue)) ∧
    (∀ n p, n ≠ 0 → bayOf n = some p →
      exec (.queryOperation n) s = .next (answered s .ok (.linkStatus (s.link p).op (s.link p).state))) ∧
    exec .readClock s = .next (answered s .ok
      (.clock s.clock s.controller.station.frequency s.releaseUnit.next s.controller.station.depth s.releaseUnit.blockCounter)) ∧
    (∀ n, bayOf n = none → exec (.readBay n) s = .next (answered s .badValue)) ∧
    (∀ n p, bayOf n = some p → exec (.readBay n) s = .next (answered s .ok
      (.bay p (s.bay p) ((s.bay p).effective .isolatorA) ((s.bay p).effective .isolatorB) ((s.bay p).effective .breaker)
        (s.bay p).dead))) ∧
    exec .readZone s = .next (answered s .ok s.zoneFields) ∧
    exec (.readSettings 0) s = .next (answered s .ok
      (.settings s.settings.active true none s.settings.switchPending s.settings.passed s.settings.lastReason)) ∧
    exec (.readSettings 1) s = .next (answered s .ok
      (.settings s.settings.staged s.settings.stagedValid s.settings.firstInvalid s.settings.switchPending s.settings.passed
        s.settings.lastReason)) ∧
    (∀ n, 1 < n → exec (.readSettings n) s = .next (answered s .badValue)) ∧
    (∀ i, exec (.readRecord 0 i) s = .next
      (answered s (if s.trip.records = [] then .noRecord else .ok) (s.recordFields s.trip.records.head?))) ∧
    (∀ i, exec (.readRecord 1 i) s = .next
      (answered s (if (s.trip.records.find? fun r => r.id == i).isSome then .ok else .noRecord)
        (s.recordFields (s.trip.records.find? fun r => r.id == i)))) ∧
    (∀ x i, 1 < x → exec (.readRecord x i) s = .next (answered s .badValue (s.recordFields none))) ∧
    (∀ n c, bayOf n = none ∨ 1 < c → exec (.readLink n c) s = .next (answered s .badValue)) ∧
    (∀ n p, bayOf n = some p → exec (.readLink n 0) s = .next (answered s .ok (s.linkFields p))) ∧
    ∀ n p, bayOf n = some p → exec (.readLink n 1) s = .next
      (answered (s.modLink p fun l => { l with errors := .zero }) .ok (s.linkFields p))

/-! ### Bay Table -/

/-- CONFIGURE_BAY (R3, R4, R88). With its named values read: the checks in order, then the record written and the grant computed;
and the field named where the bay number, KIND, POLARITY or the place is outside its list.
Which field is named where several are wrong is log entry 15. -/
def Obligations.ConfigureBayWritesTheRecord : Prop :=
  (∀ (s : State) (p : Pos) (k : BayKind) (x : SectionNo) (u : Bus),
    let taken (o : Pos) : Prop :=
      o ≠ p ∧ (s.bay o).configured = true ∧ (s.bay o).kind = k ∧
        ((k = .coupler ∧ (s.bay o).sectionNo = x) ∨ (k = .sectionBay ∧ (s.bay o).bus = u))
    (s.occupant p k x u = none ↔ ∀ o, ¬ taken o) ∧ (∀ o, s.occupant p k x u = some o → taken o ∧ ∀ q, q < o → ¬ taken q) ∧
    s.otherAllocs p = allocations s.bays (allPos.filter fun o => o != p)) ∧
  (∀ (b k x u c o a : Nat) (p : Pos) (kind : BayKind) (pol : Polarity) (sec : SectionNo) (bus : Bus) (s : State), powered s →
    bayOf b = some p → kindOf k = some kind → polarityOf o = some pol → placeOf kind x u = .ok (sec, bus) →
    let others := s.otherAllocs p
    let record : BayRecord :=
      { BayRecord.reset with
        configured := true, kind := kind, scale := c, polarity := pol, alloc := a
        sectionNo := if kind = .sectionBay then .one else sec
        bus := if kind = .sectionBay then bus else .a }
    exec (.configureBay b k x u c o a) s = .next
      (if s.controller.protection = .starting then answered s .badState
       else if (s.bay p).service ≠ .outOfService then answered s .badState
       else if (s.link p).state ≠ .down then answered s .badState
       else if c = 0 ∨ 16384 < c then answered s .badValue (.field .scale)
       else if 64 < a then answered s .badValue (.field .alloc)
       else if a < s.controller.station.depth + 1 then answered s .belowDepth
       else if (kind = .sectionBay ∨ sec = .two) ∧ s.controller.station.twoSections = false then
        answered s .conflict (.conflicting none)
       else if s.occupant p kind sec bus ≠ none then answered s .conflict (.conflicting (s.occupant p kind sec bus))
       else if 512 < others + a then answered s .noPool (.freeBudget (512 - others))
       else
        answered
          ((s.modBay p fun _ => record).modPool p fun q =>
            { q with span := a, grant := s.releaseUnit.next + seqOf a - 1, stalled := false }) .ok)) ∧
  (∀ (b k x u c o a : Nat) (s : State), powered s →
    (bayOf b = none → exec (.configureBay b k x u c o a) s = .next (answered s .badValue (.field .bayNumber))) ∧
    ∀ p, bayOf b = some p →
      (2 < k → exec (.configureBay b k x u c o a) s = .next (answered s .badValue (.field .kind))) ∧
      (k ≤ 2 → 1 < o → exec (.configureBay b k x u c o a) s = .next (answered s .badValue (.field .polarity))) ∧
      (k ≤ 1 → o ≤ 1 → x ≠ 1 → x ≠ 2 →
        exec (.configureBay b k x u c o a) s = .next (answered s .badValue (.field .sectionNo))) ∧
      (k = 2 → o ≤ 1 → 1 < u → exec (.configureBay b k x u c o a) s = .next (answered s .badValue (.field .bus))))

/-- SET_SERVICE (R14): the checks in order, a change with its effects, and the releases of R53 where the IN_SERVICE set changes. The
effects of a change, whole (R15, R16, R34, R153): SERVICE, the orders it cancels and the recompute mark; out of service also the latches with
the trip flags examined (R138), the link with its BUSY operation, an aborted shrink's allocation applied (R96), the frames, counters and runs.
Releases made due by the change come at once (log entry 11); what the link keeps is log entry 18. -/
def Obligations.SetServiceMovesTheBay : Prop :=
  (∀ (before after : Service) (k : OrderKind), serviceCancels before after k = true ↔
    (k = .testTrip ∧ before = .maintenance ∧ after ≠ .maintenance) ∨
      (k = .resetUnit ∧ after = .inService ∧ before ≠ .inService)) ∧
  (∀ (s : State) (p : Pos) (which : OrderKind → Bool) (cause : CancelCause),
    s.cancelOrders p which cause =
      (s.modTrip p fun t =>
        let kept := t.reserved.filter fun o => !which o.kind
        if (t.inFlight.any fun f => which f.order.kind) = true then
          { t with inFlight := kept.map fun o => { order := o, timer := s.active.echoSpan }, reserved := none }
        else { t with reserved := kept }).postAll (cancellations s p which cause)) ∧
  (∀ (b v : Nat) (s : State), powered s →
    (bayOf b = none ∨ 2 < v → exec (.setService b v) s = .next (answered s .badValue)) ∧
    ∀ (p : Pos) (target : Service), bayOf b = some p → serviceOf v = some target →
      exec (.setService b v) s = .next
        (if (s.bay p).configured = false then answered s .notConfigured
         else if s.controller.protection = .starting then answered s .badState
         else if target = (s.bay p).service then answered s .ok
         else if (s.bay p).dead = false then answered s .notDead
         else if target = .outOfService ∧ (s.tripState p).bf = .timing then answered s .bfRunning
         else
          answered
            (if (s.bay p).service = .inService ∨ target = .inService then (s.changeService p target).settle
             else s.changeService p target) .ok)) ∧
  ∀ (p : Pos) (target : Service) (s : State),
    (target ≠ .outOfService → s.changeService p target =
      { s.cancelOrders p (serviceCancels (s.bay p).service target) .service with
        bays := s.bays.modify p fun b => { b with service := target }
        replica := { s.replica with recompute := true } }) ∧
    s.changeService p .outOfService =
      { s with
        replica := { s.replica with recompute := true }
        bays := s.bays.modify p fun b =>
          { b with service := .outOfService, missingRun := 0, presentRun := 0, lastPresent := none, data := false }
        zones := (tripReset s p).zones
        trip := { s.trip with bays := s.trip.bays.modify p fun t => { unlatched t with inFlight := none, reserved := none } }
        links := s.links.modify p fun l =>
          { l with
            state := .down, recovery := false, wakeOption := false, activitySeen := false, good := 0, lastGood := none
            sinceGood := 0, lane := none
            errors := { crc := 0, address := 0, late := 0, duplicate := 0, overrun := 0, syncLoss := 0, suppressed := 0 }
            timer := if l.op.state = .busy ∧ l.op.kind ≠ .reallocate then none else l.timer
            op := if l.op.state = .busy then { l.op with state := .done, result := some .aborted } else l.op }
        pool := s.pool.modify p fun q =>
          if (s.link p).op.state = .busy ∧ (s.link p).op.kind = .reallocate then
            { span := (s.bay p).alloc, grant := s.releaseUnit.next + seqOf (s.bay p).alloc - 1, stalled := false, frames := [] }
          else { q with frames := [] }
        port :=
          let told := s.postAll (cancellations s p (fun _ => true) .service)
          (if (s.link p).op.state = .busy then
            told.post { subject := .bay p, detail := .linkOpDone (s.link p).op.kind .aborted (s.link p).op.wake }
           else told).port }

/-- OVERRIDE (R11, R34).
An element number outside the three is log entry 14. -/
def Obligations.OverrideForcesAnElement : Prop :=
  ∀ (b e v : Nat) (s : State), powered s →
    (bayOf b = none ∨ 2 < v → exec (.override b e v) s = .next (answered s .badValue)) ∧
    ∀ (p : Pos) (f : Forcing), bayOf b = some p → forcingOf v = some f →
      ((s.bay p).configured = false → exec (.override b e v) s = .next (answered s .notConfigured)) ∧
      ((s.bay p).configured = true →
        (2 < e → exec (.override b e v) s = .next (answered s .badValue (.element e))) ∧
        ∀ el, elementOf e = some el →
          (¬ mayOverride (s.bay p).kind el → exec (.override b e v) s = .next (answered s .badValue (.element e))) ∧
          (mayOverride (s.bay p).kind el →
            let forced := (s.bay p).withElement el { (s.bay p).element el with forcing := f }
            exec (.override b e v) s = .next
              (answered
                { s with
                  bays := s.bays.set p forced
                  replica :=
                    { s.replica with
                      recompute := s.replica.recompute ||
                        ((s.bay p).service == .inService && forced.effective el != (s.bay p).effective el) } }
                .ok (.replica (forced.effective el)))))

/-- The contact status of a contact pair (R7), and what its consumption does to the derived replica, the open-debounce count, the
travel count and the stuck-reported flag (R8, R9). -/
def Obligations.ContactsMoveTheReplica : Prop :=
  (∀ closed opened : Bool,
    ContactPair.status { closedIndicating := closed, openIndicating := opened } =
      if closed && !opened then .closed else if !closed && opened then .opened else if !closed && !opened then .travel
      else .invalid) ∧
  ∀ (d : Nat) (e : ElementRecord),
    e.consume d .closed = { e with contact := .closed, derived := .closed, debounce := 0, travel := 0, stuck := false } ∧
    e.consume d .invalid = { e with contact := .invalid, derived := .closed, debounce := 0, travel := 0, stuck := false } ∧
    e.consume d .travel = { e with contact := .travel, derived := .closed, debounce := 0 } ∧
    e.consume d .opened =
      { e with
        contact := .opened, travel := 0, stuck := false
        derived := if d ≤ e.debounce + 1 then .opened else e.derived
        debounce := if d ≤ e.debounce + 1 then d else e.debounce + 1 }

/-- Effective replicas and the dead-bay test (R12). -/
def Obligations.DeadBayByEffectiveReplicas : Prop :=
  ∀ b : BayRecord,
    (∀ e, b.effective e =
      if mayOverride b.kind e ∧ (b.element e).forcing = .forceOpen then .opened
      else if mayOverride b.kind e ∧ (b.element e).forcing = .forceClosed then .closed
      else (b.element e).derived) ∧
    (b.dead = true ↔
      if b.kind = .feeder then b.effective .isolatorA = .opened ∧ b.effective .isolatorB = .opened
      else b.effective .breaker = .opened)

/-- A reported current in mA-ref (R6): negated if REVERSED, times SCALE, divided by 1024 with truncation toward zero; and a present
bay's last currents. -/
def Obligations.CurrentsAreScaled : Prop :=
  (∀ (c : Nat) (x : Int), scaled .normal c x = (x * c).tdiv 1024 ∧ scaled .reversed c x = -scaled .normal c x) ∧
  ∀ (q : Seq) (f : StoredFrame) (b : BayRecord), b.storeCurrents q f =
    if f.status.unitOk then
      { b with last := some { currents := f.currents.map (scaled b.polarity b.scale), sequence := q } }
    else b

/-- The work of a release on one bay (R5, R9, R10, R17 to R20): the record, the notices in their order with the cancelled orders of a
maintenance violation, and what is handed on. The rows of it (R8, R9, R19), each alone: log entry 3. The start condition after the work
on all bays: log entry 19. -/
def Obligations.BayRowsOfARelease : Prop :=
  (∀ (g : Settings) (q : Seq) (frame : Option StoredFrame) (b : BayRecord),
    let feeder := b.kind = .feeder
    let present : Bool := frame.any fun f => f.status.unitOk
    let b1 : BayRecord := match frame with
      | none => b
      | some f =>
        { b with
          isolatorA := if feeder then b.isolatorA.consume g.openDebounce f.status.isolatorA.status else b.isolatorA
          isolatorB := if feeder then b.isolatorB.consume g.openDebounce f.status.isolatorB.status else b.isolatorB
          breaker := b.breaker.consume g.openDebounce f.status.breaker.status
          testSeen := f.status.testMode, bfiPrevious := f.status.bfi
          last := if f.status.unitOk then some { currents := f.currents.map (scaled b.polarity b.scale), sequence := q } else b.last }
    let travelled (e : ElementRecord) : ElementRecord :=
      if e.contact = .travel then
        { e with travel := upTo16 e.travel, stuck := e.stuck || decide (g.travelLimit ≤ upTo16 e.travel) }
      else e
    let b2 : BayRecord :=
      { b1 with
        isolatorA := if feeder then travelled b1.isolatorA else b1.isolatorA
        isolatorB := if feeder then travelled b1.isolatorB else b1.isolatorB
        breaker := travelled b1.breaker }
    let b3 : BayRecord :=
      if b.service = .outOfService then b2
      else if present then
        { b2 with
          presentRun := upTo16 b.presentRun, missingRun := 0, lastPresent := some q
          data := b.data && !decide (16 ≤ upTo16 b.presentRun) }
      else
        { b2 with
          missingRun := upTo16 b.missingRun, presentRun := 0, data := b.data || decide (4 ≤ upTo16 b.missingRun) }
    let violates : Prop := b.service = .maintenance ∧ b3.dead = false
    let decoded : List Element := if feeder then [.isolatorA, .isolatorB, .breaker] else [.breaker]
    let r := b.step g q frame
    r.record = (if violates then { b3 with service := .inService } else b3) ∧
    r.before =
      (match frame with
       | none => []
       | some f =>
         (decoded.filter fun e => decide ((f.status.pair e).status = .invalid ∧ (b.element e).contact ≠ .invalid)).map
           fun e => .contactInvalid e q) ++
      ((decoded.filter fun e =>
          decide ((b1.element e).contact = .travel ∧ (b1.element e).stuck = false ∧ g.travelLimit ≤ upTo16 (b1.element e).travel)).map
        fun e =>
          if e = .breaker then .breakerStuck e (upTo16 (b1.element e).travel)
          else .isolatorStuck e (upTo16 (b1.element e).travel)) ++
      (match frame with
       | none => []
       | some f => if f.status.testMode = b.testSeen then [] else [.testModeSeen f.status.testMode]) ∧
    r.violation = (if violates then [.maintenanceViolation (decoded.filter fun e => decide (b3.effective e = .closed))] else []) ∧
    r.after =
      (if b.service = .outOfService then []
       else if present then (if b.data = true ∧ 16 ≤ upTo16 b.presentRun then [.dataRestored] else [])
       else if b.data = false ∧ 4 ≤ upTo16 b.missingRun then [.dataLost b.lastPresent] else []) ∧
    r.hand =
      (match frame with
       | none =>
         { present := false, consumed := false, currents := ⟨0, 0, 0⟩, bfiEdge := false, tripSeen := false, transferSeen := false
           echo := 0, violation := decide violates }
       | some f =>
         { present := f.status.unitOk, consumed := true, currents := f.currents.map (scaled b.polarity b.scale)
           bfiEdge := f.status.bfi && !b.bfiPrevious, tripSeen := f.status.tripSeen, transferSeen := f.status.transferSeen
           echo := f.echo, violation := decide violates })) ∧
  (∀ (q : Seq) (s : State) (p : Pos),
    ((s.bay p).configured = false → s.workBay q p = s) ∧
    ((s.bay p).configured = true →
      let r := (s.bay p).step s.active q ((s.linkPool p).frames.find? fun f => f.sequence == q)
      let posted (ds : List NoticeDetail) : List Report := ds.map fun d => { subject := .bay p, detail := d }
      let told := (s.modBay p fun _ => r.record).postAll (posted (r.before ++ r.violation))
      let freed := if r.hand.violation then told.cancelOrders p (serviceCancels .maintenance .inService) .service else told
      s.workBay q p = freed.postAll (posted r.after))) ∧
  (∀ (q : Seq) (s : State),
    let worked := allPos.foldl (fun u p => u.workBay q p) s
    s.workBays q =
      if worked.controller.protection = .starting ∧ worked.startCondition = true then worked.succeedStart else worked) ∧
  ∀ (p : Pos) (s : State), powered s → (s.bay p).configured = true →
    (∀ e ∈ (s.bay p).kind.elements,
      (((s.bay p).element e).derived = .closed → s.active.openDebounce ≤ ((s.bay p).element e).debounce + 1 →
        exec (.replicaOpen p e) s = .next (s.modBay p fun b => b.withElement e
          { b.element e with
            contact := .opened, derived := .opened, debounce := s.active.openDebounce, travel := 0, stuck := false })) ∧
      (((s.bay p).element e).contact = .travel → ((s.bay p).element e).stuck = false →
        s.active.travelLimit ≤ upTo16 ((s.bay p).element e).travel →
        let stuck := s.modBay p fun b => b.withElement e { b.element e with travel := upTo16 (b.element e).travel, stuck := true }
        (e ≠ .breaker → exec (.isolatorStuck p e) s = .next
          (stuck.post { subject := .bay p, detail := .isolatorStuck e (upTo16 ((s.bay p).element e).travel) })) ∧
        (e = .breaker → exec (.breakerStuck p) s = .next
          (stuck.post { subject := .bay p, detail := .breakerStuck e (upTo16 ((s.bay p).element e).travel) })))) ∧
    ((s.bay p).service ≠ .outOfService → (s.bay p).data = false → 3 ≤ (s.bay p).missingRun →
      exec (.dataLost p) s = .next
        ((s.modBay p fun b => { b with missingRun := upTo16 b.missingRun, presentRun := 0, data := true }).post
          { subject := .bay p, detail := .dataLost (s.bay p).lastPresent })) ∧
    ((s.bay p).service ≠ .outOfService → (s.bay p).data = true → 15 ≤ (s.bay p).presentRun →
      exec (.dataRestored p) s = .next
        ((s.modBay p fun b =>
          { b with
            presentRun := upTo16 b.presentRun, missingRun := 0, lastPresent := some s.releaseUnit.next, data := false }).post
          { subject := .bay p, detail := .dataRestored }))

/-! ### Zone Replica -/

/-- BLOCK_ZONE (R24, R34).
A list of more than four names is log entry 13, its refusal before any zone is named log entry 33. Which zone is named is log entry 26. -/
def Obligations.BlockZoneSetsHost : Prop :=
  ∀ (ns : List Nat) (s : State), powered s →
    (ns = [] ∨ 4 < ns.length ∨ (∃ n ∈ ns, 3 < n) → exec (.blockZone ns) s = .next (answered s .badValue)) ∧
    ∀ zs : List BusZone, ns ≠ [] → ns.length ≤ 4 → ns = zs.map zoneBit →
      let someClear := s.replica.busZones.any fun z => zs.contains z.zone && !z.host
      let t : State :=
        { s with replica :=
          { s.replica with
            busZones := s.replica.busZones.map fun z => if zs.contains z.zone then { z with host := true } else z
            recompute := s.replica.recompute || someClear } }
      exec (.blockZone ns) s = .next
        (match zs.find? fun z => !s.replica.existing.contains z with
         | some z => answered s .badValue (.zone z)
         | none => answered t .ok
            (.zoneFlags (t.replica.busZones.map fun z => (z.zone, z.host, z.cts)) s.replica.checkCts someClear))

/-- UNBLOCK_ZONE (R25, R34, R128): the checks; HOST and CTS cleared, the CTS counters of the effective zones that contain a zone whose
CTS was set, and of the check zone where its flag was set and CHECK is yes, cleared with them, and nothing else. A list of more than
four names is log entry 13, the zone named log entry 26, CHECK and the length looked at before any zone is named log entry 33. -/
def Obligations.UnblockZoneClearsFlags : Prop :=
  ∀ (ns : List Nat) (c : Nat) (s : State), powered s →
    (1 < c ∨ (ns = [] ∧ c = 0) ∨ 4 < ns.length ∨ (∃ n ∈ ns, 3 < n) →
      exec (.unblockZone ns c) s = .next (answered s .badValue)) ∧
    ∀ zs : List BusZone, c ≤ 1 → (ns ≠ [] ∨ c = 1) → ns.length ≤ 4 → ns = zs.map zoneBit →
      let standsHere (z : BusZone) : Bool := s.replica.busZones.any fun r => r.zone == z
      let someSet := (s.replica.busZones.any fun z => zs.contains z.zone && (z.host || z.cts)) || (c == 1 && s.replica.checkCts)
      let replica : ZoneReplica :=
        { s.replica with
          busZones := s.replica.busZones.map fun z => if zs.contains z.zone then { z with host := false, cts := false } else z
          checkCts := s.replica.checkCts && c != 1, recompute := s.replica.recompute || someSet }
      let fresh : CtsState := { counter := ⟨0, 0, 0⟩, reported := ⟨false, false, false⟩ }
      let wasHeld (name : BusZone) : Bool := s.replica.busZones.any fun r => zs.contains r.zone && r.cts &&
        (s.replica.picture.any fun pic => (pic.zones.find? fun z => z.zones.contains r.zone).any fun z => z.name == name)
      exec (.unblockZone ns c) s = .next
        (match zs.find? fun z => !standsHere z with
         | some z => answered s .badValue (.zone z)
         | none =>
           answered
             { s with
               replica := replica
               zones := s.zones.map fun st => if wasHeld st.name then { st with cts := fresh } else st
               check := if c = 1 ∧ s.replica.checkCts = true then s.check.map fun k => { k with cts := fresh } else s.check }
             .ok (.zoneFlags (replica.busZones.map fun z => (z.zone, z.host, z.cts)) replica.checkCts someSet))

/-- The partition (R26, R27), the membership of its zones with their signs (R28 to R32), and the picture of a release with the zones
that are changed in it (R33, R35). When the set of bus zones counts as changed is log entry 25. -/
def Obligations.PartitionAndMembers : Prop :=
  (∀ (bays : Table BayRecord) (existing : List BusZone), partitionOf bays existing =
    sectionZones bays .one ++ (if BusZone.a2 ∈ existing then sectionZones bays .two else [])) ∧
  (∀ (bays : Table BayRecord) (zs : List BusZone),
    (∀ p m, { bay := p, minus := m } ∈ membersOf bays zs ↔ (bays.get p).memberSign zs = some m) ∧
    ((membersOf bays zs).map Member.bay).Pairwise (· < ·) ∧ (checkMembers bays).Pairwise (· < ·)) ∧
  (∀ (r : ZoneReplica) (bays : Table BayRecord) (q : Seq),
    let pic := pictureOf r bays q
    let existing := r.busZones.map BusZoneRecord.zone
    pic.sequence = q ∧
    pic.zones.map (fun z => (z.name, z.zones, z.members, z.reasons)) =
      (partitionOf bays existing).map (fun zs => (zs.headD .a1, zs, membersOf bays zs, reasonsOf r bays zs (membersOf bays zs))) ∧
    (∀ z ∈ pic.zones, z.changed = false ↔
      ∃ old, r.picture = some old ∧ old.zones.flatMap EffZone.zones = existing ∧
        ∃ y ∈ old.zones, y.zones = z.zones ∧ y.members = z.members) ∧
    pic.check.members = checkMembers bays ∧
    (pic.check.changed = false ↔ ∃ old, r.picture = some old ∧ old.check.members = checkMembers bays)) ∧
  ∀ bays : Table BayRecord,
    (∀ x, sectionZones bays x =
      if allPos.any (fun p => (bays.get p).service == .inService && (bays.get p).kind == .feeder && (bays.get p).sectionNo == x &&
        (bays.get p).effective .isolatorA == .closed && (bays.get p).effective .isolatorB == .closed) = true
      then [[zoneA x, zoneB x]] else [[zoneA x], [zoneB x]]) ∧
    (∀ (zs : List BusZone) (b : BayRecord), b.service ≠ .inService → b.memberSign zs = none) ∧
    (∀ (zs : List BusZone) (b : BayRecord), b.service = .inService →
      (b.kind = .feeder → b.memberSign zs =
        if (b.effective .isolatorA = .closed ∧ zoneA b.sectionNo ∈ zs) ∨ (b.effective .isolatorB = .closed ∧ zoneB b.sectionNo ∈ zs)
        then some false else none) ∧
      (b.kind = .coupler → b.memberSign zs =
        if b.effective .breaker = .closed ∧ zoneA b.sectionNo ∈ zs ∧ zoneB b.sectionNo ∉ zs then some true
        else if b.effective .breaker = .closed ∧ zoneA b.sectionNo ∉ zs ∧ zoneB b.sectionNo ∈ zs then some false else none) ∧
      (b.kind = .sectionBay → b.memberSign zs =
        if b.effective .breaker = .closed ∧ zoneOne b.bus ∈ zs then some true
        else if b.effective .breaker = .closed ∧ zoneTwo b.bus ∈ zs then some false else none)) ∧
    ∀ p, p ∈ checkMembers bays ↔ (bays.get p).service = .inService ∧ (bays.get p).kind = .feeder

/-- When an effective zone and the check zone are blocked (R37, R38), the notices of a change (R40), and the Zone Replica's turn at a
release: the picture is kept, the state of zones that nothing continues is dropped, and the blocked states are reported in order (R33,
R36, R40). -/
def Obligations.BlockedStatesAreReported : Prop :=
  (∀ (s : State) (q : Seq), s.settlePicture q =
    let pic := pictureOf s.replica s.bays q
    let cleared : State :=
      { s with
        replica :=
          { s.replica with
            busZones := s.replica.busZones.map fun z =>
              { z with effective := (pic.zones.find? fun y => y.zones.contains z.zone).map EffZone.name }
            picture := some pic, recompute := false }
        zones := s.zones.filter fun st => pic.zones.any fun z => z.name == st.name && !z.members.isEmpty && !z.changed
        check := if pic.check.changed = true ∨ pic.check.members = [] then none else s.check }
    (pic.zones.foldl State.reportZone cleared).reportCheck pic.check) ∧
  (∀ (r : ZoneReplica) (bays : Table BayRecord) (zs : List BusZone) (ms : List Member), reasonsOf r bays zs ms =
    { host := (r.busZones.filter fun z => zs.contains z.zone && z.host).map BusZoneRecord.zone
      cts := (r.busZones.filter fun z => zs.contains z.zone && z.cts).map BusZoneRecord.zone
      data := (ms.filter fun m => (bays.get m.bay).data).map Member.bay
      test := (ms.filter fun m => (bays.get m.bay).testSeen).map Member.bay }) ∧
  (∀ (s : State) (c : CheckZone),
    (s.replica.checkReported = c.blocked → s.reportCheck c = s) ∧
    (s.replica.checkReported ≠ c.blocked → s.reportCheck c =
      State.post { s with replica := { s.replica with checkReported := c.blocked } }
        { subject := .nobody, detail := if c.blocked then .checkBlocked c.cts c.data else .checkUnblocked })) ∧
  (∀ c : CheckZone, c.blocked = true ↔ c.cts = true ∨ c.data ≠ []) ∧
  (∀ (r : ZoneReplica) (bays : Table BayRecord) (zs : List BusZone) (ms : List Member),
    (reasonsOf r bays zs ms).blocked = true ↔
      (∃ z ∈ r.busZones, z.zone ∈ zs ∧ (z.host = true ∨ z.cts = true)) ∨
      ∃ m ∈ ms, (bays.get m.bay).data = true ∨ (bays.get m.bay).testSeen = true) ∧
  (∀ (r : ZoneReplica) (bays : Table BayRecord) (q : Seq),
    (pictureOf r bays q).check.blocked = true ↔
      r.checkCts = true ∨ ∃ p, (bays.get p).service = .inService ∧ (bays.get p).kind = .feeder ∧ (bays.get p).data = true) ∧
  ∀ (s : State) (z : EffZone),
    let changed := (s.replica.busZones.filter fun y => z.zones.contains y.zone && y.reportedBlocked != z.blocked).map BusZoneRecord.zone
    (changed = [] → s.reportZone z = s) ∧
    (changed ≠ [] → s.reportZone z =
      State.post
        { s with replica :=
          { s.replica with busZones := s.replica.busZones.map fun y =>
              if z.zones.contains y.zone then { y with reportedBlocked := z.blocked } else y } }
        { subject := .busZone z.name
          detail := if z.blocked then .zoneBlocked z.name z.zones changed z.reasons else .zoneUnblocked z.name z.zones changed })

/-! ### Sequence Clock and Release Unit -/

/-- The comparison of sequence numbers, and their addition (R44). -/
def Obligations.SequenceNumbersCompareOverHalfTheRange : Prop :=
  ∀ s t : Seq,
    (ahead s t = true ↔ 1 ≤ (s.toNat + 65536 - t.toNat) % 65536 ∧ (s.toNat + 65536 - t.toNat) % 65536 ≤ 32767) ∧
    (behind s t = ahead t s) ∧ ahead s s = false ∧ behind s s = false ∧
    s.toNat ≤ 65535 ∧
    ∀ k : Nat, (s + seqOf k).toNat = (s.toNat + k) % 65536 ∧ (s - seqOf k).toNat = (s.toNat + 65536 - k % 65536) % 65536

/-- SAMPLE_BOUNDARY (R43, R45, R48): the current sequence moves by one, the slewing takes at most 4/256 SP, then the frames are sent,
the timers fall and the due releases are made; a restart whose reply has been sent comes first (log entry 6).
The order of the blocks is log entry 4, the releases log entry 11. The timers of a
link (R64, R67, R69, R72, R74; the silence before the timer is log entry 27), of a bay's latches and orders (R140, R152) and of a start
(R166, R168) fall by one. -/
def Obligations.SampleBoundaryAdvancesTheClock : Prop :=
  (∀ s : State, s.tickTimers =
    (allPos.foldl (fun u p => u.tickBay p) (allPos.foldl (fun u p => u.tickLink p) s)).tickWait) ∧
  (∀ (s : State) (p : Pos), s.tickLink p =
    let aged := s.modLink p fun l => { l with sinceGood := upTo16 l.sinceGood }
    let silent : Prop := 16 ≤ upTo16 (s.link p).sinceGood
    let timed (u : State) : State :=
      if ((s.link p).timer.any fun n => decide (n ≤ 1)) = true then timedOut u p
      else u.modLink p fun l => { l with timer := l.timer.map fun n => n - 1 }
    match (s.link p).state with
    | .down => s
    | .dormant => s
    | .hunt => timed aged
    | .lock => timed (if silent then aged.modLink p fun l => { l with state := .hunt, good := 0, lastGood := none } else aged)
    | .measure => timed (if silent then aged.modLink p fun l => { l with state := .hunt, good := 0, lastGood := none } else aged)
    | .active => if silent then syncLost s p else aged) ∧
  (∀ (s : State) (p : Pos), s.tickBay p =
    let runsOut (l : Latch) : Prop := (l.echo.any fun n => decide (n ≤ 1)) = true
    let ticked (l : Latch) : Latch := { l with echo := if runsOut l then none else l.echo.map fun n => n - 1 }
    let t := s.tripState p
    let told (u : State) (k : LatchKind) (l : Latch) : State :=
      if runsOut l then u.post { subject := .bay p, detail := .tripUnconfirmed k l.sequence } else u
    let latches := told (told (s.modTrip p fun t => { t with trip := ticked t.trip, transfer := ticked t.transfer }) .trip t.trip)
      .transferTrip t.transfer
    match t.inFlight with
    | none => latches
    | some f =>
      if f.timer ≤ 1 then (landed latches p).post { subject := .bay p, detail := .orderTimeout f.order.kind f.order.tag }
      else latches.modTrip p fun t => { t with inFlight := some { f with timer := f.timer - 1 } }) ∧
  (∀ s : State, s.tickWait =
    if s.controller.protection = .starting then
      match s.controller.waitTimer with
      | none => s
      | some n =>
        if n ≤ 1 then
          startEnded s .halted
            (.notMet (allPos.filter fun p => (s.bay p).service == .inService && (s.link p).state != .active)
              (s.controller.station.markRequired && s.clock.state != .locked))
        else { s with controller := { s.controller with waitTimer := some (n - 1) } }
    else s) ∧
  ∀ s : State, powered s →
    let u := if s.controller.restartPending then s.restart else s
    let step : Int := max (-4) (min 4 u.clock.outstanding)
    let clock : Clock :=
      { u.clock with
        current := u.clock.current + 1, runningRate := u.controller.station.frequency, stretch := step
        sinceMark := upTo16 u.clock.sinceMark, outstanding := u.clock.outstanding - step }
    ∃ t, exec .sampleBoundary s = .next t ∧ t = (State.tickTimers (State.sendFrames { u with clock := clock })).settle ∧
      t.clock = clock ∧ t.pending = s.pending ∧ t.pins = s.pins

/-- MARK (R45 to R48): the capture, the classification, the clock state and the outstanding correction. MISSING_COUNT_RISE and
MARK_TIMEOUT (R46 to R48). A change of clock state posts CLOCK_STATE with its cause (R47, R49), and the start condition is tested (R167).
The time since the last mark as an operand is log entry 7, marks never captured log entry 17, CLOCK_STATE before the start's OP_DONE log
entry 31, the releases made at once after a start that succeeds log entry 11. -/
def Obligations.MarksMoveTheClock : Prop :=
  (∀ (elapsed : Nat) (phase : Int) (s : State), powered s →
    let perSecond := if s.controller.station.frequency = .hz50 then 2400 else 2880
    let regular : Bool := s.clock.marked && ((elapsed : Int) - 1000000000).natAbs * (4 * perSecond) ≤ 1000000000
    let run := if regular then min (s.clock.regularRun + 1) 255 else 0
    let state : ClockState :=
      if regular ∧ 3 ≤ run then .locked
      else match s.clock.state with
        | .free => .free
        | .locked => if regular then .locked else .holdover
        | .holdover => .holdover
    let clock : Clock :=
      { s.clock with
        atMark := s.clock.current, phaseError := phase, markCount := s.clock.markCount + 1, sinceMark := 0, marked := true
        missing := 0, regularRun := run, state := state
        outstanding := if state = .locked then phase else s.clock.outstanding }
    exec (.mark elapsed phase) s = .next
      (if state = s.clock.state then { s with clock := clock }
       else clockChanged s clock (if state = .locked then .regularMarks else .irregularMark))) ∧
  ∀ s : State, powered s →
    let missed : Clock := { s.clock with missing := min (s.clock.missing + 1) 255, regularRun := 0 }
    exec .missingCountRise s = .next
      (if s.clock.marked = false then s
       else if s.clock.state = .holdover ∧ 60 ≤ missed.missing then
        clockChanged s { missed with state := .free, outstanding := 0 } .marksMissing
       else { s with clock := missed }) ∧
    exec .markTimeout s = .next
      (if s.clock.state = .locked then clockChanged s { s.clock with state := .holdover } .markTimeout else s)

/-- RELEASE (R52, R54, R58): when next_release is due, the seven steps of its release in order, what it leaves of the Release Unit and
the pool, and the releases in succession that R53 asks for. That the row is exactly one release is log entry 11, that nothing comes
between its steps log entry 19, the order of the drain checks log entry 29. -/
def Obligations.ReleaseWhenDue : Prop :=
  (∀ s : State, s.release =
    let q := s.releaseUnit.next
    let hands := s.hands q
    let begun : State := { s with releaseUnit := { s.releaseUnit with blockCounter := q.toNat % 256 } }
    let pictured := ((begun.workBays q).acknowledgeAll q hands).settlePicture q
    let acted :=
      if s.controller.protection = .running then
        pictured.protect q hands (allPos.filter fun p => decide ((s.tripState p).bf = .timing))
      else pictured
    ((acted.decideBoundary q s.controller.protection).freeSlots q).advanceNext q) ∧
  (∀ (s : State) (q : Seq) (p : Pos), (s.hands q).get p =
    if (s.bay p).configured then
      ((s.bay p).step s.active q ((s.linkPool p).frames.find? fun f => f.sequence == q)).hand
    else
      { present := false, consumed := false, currents := ⟨0, 0, 0⟩, bfiEdge := false, tripSeen := false, transferSeen := false
        echo := 0, violation := false }) ∧
  (∀ (s : State) (q : Seq) (hands : Table BayHand) (timing : List Pos),
    (s.replica.picture = none → s.protect q hands timing = s) ∧
    ∀ pic, s.replica.picture = some pic → s.protect q hands timing =
      ((s.evaluate pic hands).supervise s.active ((s.evaluated pic hands).map Prod.snd)
        ((s.evaluatedCheck pic hands).map Prod.snd)).tripWork q hands timing) ∧
  (∀ (s : State) (q : Seq),
    s.freeSlots q =
      { s with pool := s.pool.map fun k => { k with frames := k.frames.filter fun f => decide (f.sequence ≠ q) } } ∧
    s.advanceNext q = allPos.foldl (fun u p => u.drainCheck p)
      { s with
        releaseUnit := { s.releaseUnit with next := q + 1 }
        pool := s.pool.map fun k => if k.stalled then k else { k with grant := q + 1 + seqOf k.span - 1 } }) ∧
  (∀ s : State, (s.releaseDue = false → s.settle = s) ∧ (s.releaseDue = true → s.settle = s.release.settle) ∧
    s.settle.releaseDue = false) ∧
  ∀ s : State, powered s →
    (s.releaseDue = true ↔
      ahead s.releaseUnit.next s.clock.current = false ∧
      ((s.controller.protection = .running ∧
          ∀ p, (s.bay p).service = .inService → ∃ f ∈ (s.linkPool p).frames, f.sequence = s.releaseUnit.next) ∨
        reached s.clock.current (s.releaseUnit.next + seqOf s.controller.station.depth) = true)) ∧
    (s.releaseDue = false → exec .release s = .next s) ∧
    (s.releaseDue = true → ∃ t, exec .release s = .next t ∧ t = s.release ∧
      t.releaseUnit = { next := s.releaseUnit.next + 1, blockCounter := s.releaseUnit.next.toNat % 256 } ∧
      (∀ p, ∀ f ∈ (t.linkPool p).frames, f.sequence ≠ s.releaseUnit.next) ∧
      t.clock = s.clock ∧ t.pending = s.pending ∧ t.pins = s.pins)

/-! ### Bay Links -/

/-- OPEN_LINK (R66, R67). -/
def Obligations.OpenLinkStartsABringUp : Prop :=
  ∀ (b e : Nat) (s : State), powered s →
    (bayOf b = none ∨ 255 < e → exec (.openLink b e) s = .next (answered s .badValue)) ∧
    ∀ p, bayOf b = some p → e ≤ 255 → exec (.openLink b e) s = .next
      (if (s.bay p).configured = false then answered s .notConfigured
       else if (s.link p).op.state = .busy then answered s .busy
       else if (s.link p).state ≠ .down ∧ (s.link p).state ≠ .dormant then answered s .badState
       else if (s.bay p).alloc < s.controller.station.depth + 1 then answered s .belowDepth
       else
        answered
          (s.modLink p fun l =>
            { l with
              state := .hunt, recovery := false, wakeOption := false, activitySeen := false, extension := e
              timer := some (4800 + e * 480), good := 0, lastGood := none, sinceGood := 0, lagMin := none, lagMax := none
              op := { kind := .openLink, state := .busy, result := none, wake := false } }) .accepted)

/-- CLOSE_LINK (R78, R81, R90, R96): the checks in order, then the link and its frames, the end of a BUSY operation with its OP_DONE,
and nothing else. A yes/no operand above 1 is log entry 13. -/
def Obligations.CloseLinkEmptiesTheLink : Prop :=
  ∀ (b d w : Nat) (s : State), powered s →
    (bayOf b = none ∨ 1 < d ∨ 1 < w ∨ (w = 1 ∧ d = 0) → exec (.closeLink b d w) s = .next (answered s .badValue)) ∧
    ∀ p, bayOf b = some p → d ≤ 1 → w ≤ 1 → (w = 1 → d = 1) →
      let l := s.link p
      let busy := l.op.state = .busy
      exec (.closeLink b d w) s = .next
        (if (s.bay p).service = .inService ∧ s.controller.protection ≠ .halted then answered s .badState
         else if d = 1 ∧ (s.bay p).configured = false then answered s .notConfigured
         else
          answered
            { s with
              links := s.links.set p
                { l with
                  state := if d = 1 then .dormant else .down
                  lane := none, recovery := false, good := 0, lastGood := none, sinceGood := 0, wakeOption := decide (w = 1)
                  activitySeen := false, timer := if busy ∧ l.op.kind ≠ .reallocate then none else l.timer
                  op := if busy then { l.op with state := .done, result := some .aborted } else l.op }
              pool := s.pool.set p
                (if busy ∧ l.op.kind = .reallocate then
                  { span := (s.bay p).alloc, grant := s.releaseUnit.next + seqOf (s.bay p).alloc - 1, stalled := false
                    frames := [] }
                 else { s.linkPool p with frames := [] })
              port :=
                if busy then
                  (s.post { subject := .bay p, detail := .linkOpDone l.op.kind .aborted l.op.wake }).port
                else s.port }
            .ok)

/-- What the receiver makes of the bytes of an upstream frame (R61, R63, R180): the class by length, CRC and address, and the fields of
a good frame. Arrivals while a link is DOWN, and in HUNT and LOCK (R65, R68, R69); bad-CRC and misaddressed frames in every state.
SP since good frame after an out-of-order frame is log entry 24. -/
def Obligations.ArrivalsSearchAndLock : Prop :=
  (crc16 [] = 0xFFFF ∧ ∀ (bs : List Byte) (b : Byte), crc16 (bs ++ [b]) =
    (List.range 8).foldl (fun (c : BitVec 16) _ => if 0x8000 ≤ c.toNat then (c <<< 1) ^^^ 0x1021 else c <<< 1)
      (crc16 bs ^^^ BitVec.ofNat 16 (256 * b.toNat))) ∧
  (∀ (p : Pos) (bytes : List Byte),
    let b (i : Nat) : Nat := (bytes.getD i 0).toNat
    let current (i : Nat) : Int :=
      let n := 65536 * b i + 256 * b (i + 1) + b (i + 2)
      if n < 8388608 then n else (n : Int) - 16777216
    let bit (i k : Nat) : Bool := b i / 2 ^ k % 2 == 1
    let pair (i : Nat) : ContactPair := { closedIndicating := bit i 1, openIndicating := bit i 0 }
    let sound : Prop := (crc16 (bytes.take 17)).toNat = 256 * b 17 + b 18
    (bytes.length < 19 → classify p bytes = .badCrc) ∧
    (bytes.length = 19 → classify p bytes =
      if ¬ sound then .badCrc
      else if b 0 ≠ p.val + 1 then .misaddressed
      else .good
        { sequence := seqOf (256 * b 1 + b 2), currents := ⟨current 3, current 6, current 9⟩
          status :=
            { isolatorA := pair 12, isolatorB := pair 13, breaker := pair 14, unitOk := bit 15 4, testMode := bit 15 3
              bfi := bit 15 2, tripSeen := bit 15 1, transferSeen := bit 15 0 }
          echo := bytes.getD 16 0 })) ∧
  ∀ (p : Pos) (bytes : List Byte) (s : State), powered s →
    ((s.link p).state = .down → exec (.frameArrival p bytes) s = .next s) ∧
    (∀ k, (classify p bytes = .badCrc ∧ k = .crc) ∨ (classify p bytes = .misaddressed ∧ k = .address) →
      ((s.link p).state = .dormant → exec (.frameArrival p bytes) s = .next s) ∧
      ((s.link p).state = .hunt ∨ (s.link p).state = .active →
        exec (.frameArrival p bytes) s = .next (s.countError p k)) ∧
      ((s.link p).state = .lock ∨ (s.link p).state = .measure →
        exec (.frameArrival p bytes) s = .next
          ((s.countError p k).modLink p fun l => { l with state := .hunt, good := 0, lastGood := none }))) ∧
    ∀ f, classify p bytes = .good f →
      ((s.link p).state = .hunt → exec (.frameArrival p bytes) s = .next
        (s.modLink p fun l => { l with state := .lock, good := 1, lastGood := some f.sequence, sinceGood := 0 })) ∧
      ((s.link p).state = .lock → (s.link p).lastGood = some (f.sequence - 1) →
        exec (.frameArrival p bytes) s = .next
          (s.modLink p fun l =>
            if 8 ≤ l.good + 1 then
              { l with
                state := .measure, good := 0, lagMin := none, lagMax := none, lastGood := some f.sequence, sinceGood := 0 }
            else { l with good := l.good + 1, lastGood := some f.sequence, sinceGood := 0 })) ∧
      ((s.link p).state = .lock ∨ (s.link p).state = .measure → (s.link p).lastGood ≠ some (f.sequence - 1) →
        exec (.frameArrival p bytes) s = .next
          (s.modLink p fun l => { l with state := .hunt, good := 0, lastGood := none, sinceGood := 0 }))

/-- A good frame in ACTIVE (R73, R89, R53): the first test that applies decides, and a stored frame of next_release is tested for
release.
The release at once is log entry 11. -/
def Obligations.ActiveArrivalIsStoredOrCounted : Prop :=
  ∀ (p : Pos) (bytes : List Byte) (f : StoredFrame) (s : State), powered s → (s.link p).state = .active →
    classify p bytes = .good f →
    let heard := s.modLink p fun l => { l with lastGood := some f.sequence, sinceGood := 0 }
    let stored := heard.modPool p fun q => { q with frames := insertFrame f q.frames }
    exec (.frameArrival p bytes) s = .next
      (if behind f.sequence s.releaseUnit.next = true then heard.countError p .late
       else if ∃ g ∈ (s.linkPool p).frames, g.sequence = f.sequence then heard.countError p .duplicate
       else if ahead f.sequence (s.linkPool p).grant = true then heard.countError p .overrun
       else if (s.linkPool p).stalled = true ∧ (s.bay p).alloc ≤ (s.linkPool p).frames.length then heard.countError p .overrun
       else if f.sequence = s.releaseUnit.next then stored.settle else stored)

/-- The outcomes of a measured frame (R70 to R72, R75), and the rows that name them: LINK_ACTIVE, RECOVERY_ACTIVE and BRING_UP_FAILED
do what the arrival does (log entry 3).
A lag of half the range is log entry 16, what a recovery's failed measurement leaves of the consecutive-good count and the last good
sequence log entry 32. The releases made at once after a start that succeeds are log entry 11. -/
def Obligations.MeasurementEnds : Prop :=
  ∀ (p : Pos) (bytes : List Byte) (f : StoredFrame) (s : State), powered s → measuredFrame s p bytes f →
    let lag := (s.clock.current - f.sequence).toInt
    let m := s.modLink p fun l =>
      { l with
        lastGood := some f.sequence, sinceGood := 0, good := l.good + 1
        lagMin := some (match l.lagMin with | none => lag | some x => min x lag)
        lagMax := some (match l.lagMax with | none => lag | some x => max x lag) }
    let entered := (m.modLink p fun l => { l with state := .active, recovery := false, timer := none, good := 0, sinceGood := 0 })
    let reported (wake : Option Bool) := entered.post
      { subject := .link p
        detail := .linkActive (s.link p).recovery (m.link p).lagMin (m.link p).lagMax wake }
    let started (t : State) : State :=
      if t.controller.protection = .starting ∧ t.startCondition = true then t.succeedStart.settle else t
    let failed (k : ErrorKind) (r : LinkResult) : State :=
      ((m.countError p k).modLink p fun l => { l with state := .down, timer := none, good := 0, lane := none }).endLinkOp p r
    (ahead f.sequence (s.linkPool p).grant = true → (s.link p).recovery = false →
      exec (.bringUpFailed p bytes) s = .next (failed .overrun .overrun)) ∧
    (ahead f.sequence (s.linkPool p).grant = false → (s.controller.station.depth : Int) - 1 < lag → (s.link p).recovery = false →
      exec (.bringUpFailed p bytes) s = .next (failed .late .lateLink)) ∧
    (ahead f.sequence (s.linkPool p).grant = true → (s.link p).recovery = true →
      exec (.frameArrival p bytes) s = .next
        ((m.countError p .overrun).modLink p fun l => { l with state := .hunt, good := 0, lastGood := none })) ∧
    (ahead f.sequence (s.linkPool p).grant = false → (s.controller.station.depth : Int) - 1 < lag → (s.link p).recovery = true →
      exec (.frameArrival p bytes) s = .next
        ((m.countError p .late).modLink p fun l => { l with state := .hunt, good := 0, lastGood := none })) ∧
    (ahead f.sequence (s.linkPool p).grant = false → lag ≤ (s.controller.station.depth : Int) - 1 →
      ((s.link p).good + 1 < 32 → exec (.frameArrival p bytes) s = .next m) ∧
      (32 ≤ (s.link p).good + 1 → (s.link p).recovery = false →
        exec (.linkActive p bytes) s = .next (started ((reported (some (s.link p).op.wake)).endLinkOp p .ok))) ∧
      (32 ≤ (s.link p).good + 1 → (s.link p).recovery = true →
        exec (.recoveryActive p bytes) s = .next (started (reported none)))) ∧
    (exec (.linkActive p bytes) s = .next s ∨ exec (.linkActive p bytes) s = exec (.frameArrival p bytes) s) ∧
    (exec (.recoveryActive p bytes) s = .next s ∨ exec (.recoveryActive p bytes) s = exec (.frameArrival p bytes) s) ∧
    (exec (.bringUpFailed p bytes) s = .next s ∨ exec (.bringUpFailed p bytes) s = exec (.frameArrival p bytes) s)

/-- A good frame in DORMANT, and WAKE_BRING_UP (R79, R80). That the row does
the whole arrival is log entry 3. -/
def Obligations.DormantActivityAndWake : Prop :=
  ∀ (p : Pos) (bytes : List Byte) (f : StoredFrame) (s : State), powered s → (s.link p).state = .dormant →
    classify p bytes = .good f →
    let activity (o : WakeOutcome) : Report := { subject := .link p, detail := .linkActivity f.sequence o }
    ((s.link p).activitySeen = true → exec (.frameArrival p bytes) s = .next s) ∧
    ((s.link p).activitySeen = false → (s.link p).wakeOption = false → exec (.frameArrival p bytes) s = .next
      ((s.modLink p fun l => { l with activitySeen := true }).post (activity .none))) ∧
    ((s.link p).activitySeen = false → (s.link p).wakeOption = true →
      exec (.frameArrival p bytes) s = exec (.wakeBringUp p bytes) s ∧
      exec (.wakeBringUp p bytes) s = .next
        (if (s.bay p).alloc < s.controller.station.depth + 1 then
          (s.modLink p fun l => { l with activitySeen := true, wakeOption := false }).post (activity .belowDepth)
         else
          (s.modLink p fun l =>
            { l with
              state := .hunt, recovery := false, wakeOption := false, activitySeen := false
              timer := some (4800 + l.extension * 480), good := 0, lastGood := none, sinceGood := 0, lagMin := none
              lagMax := none, op := { kind := .openLink, state := .busy, result := none, wake := true } }).post
            (activity .started)))

/-- BRING_UP_TIMEOUT, LOCK_TIMEOUT and LINK_LOST (R69, R70, R72, R74, R77): the ends that a sample boundary brings about.
The rows taken singly are log entry 3. -/
def Obligations.LinkTimersRunOut : Prop :=
  ∀ (p : Pos) (s : State), powered s →
    ((s.link p).state = .hunt ∨ (s.link p).state = .lock ∨ (s.link p).state = .measure → (s.link p).timer = some 1 →
      exec (.bringUpTimeout p) s = .next
        ((s.modLink p fun l => { l with state := .down, timer := none, good := 0, lane := none }).endLinkOp p .timeout)) ∧
    ((s.link p).state = .lock ∨ (s.link p).state = .measure → (s.link p).sinceGood = 15 →
      exec (.lockTimeout p) s = .next
        (s.modLink p fun l => { l with sinceGood := 16, state := .hunt, good := 0, lastGood := none })) ∧
    ((s.link p).state = .active → (s.link p).sinceGood = 15 →
      let counted := (s.modLink p fun l => { l with sinceGood := 16 }).countError p .syncLoss
      let reported :=
        if (s.bay p).service = .maintenance then counted
        else counted.post { subject := .link p, detail := .linkLost (s.link p).lastGood }
      exec (.linkLost p) s = .next
        (reported.modLink p fun l => { l with state := .hunt, good := 0, lastGood := none, recovery := true }))

/-- The downstream frame of each transmitting link at a sample boundary (R62), and its bytes (R180). -/
def Obligations.DownstreamFrameFields : Prop :=
  (∀ (s : State) (p : Pos),
    let active := (s.link p).state == .active
    let transmits := (s.link p).state = .hunt ∨ (s.link p).state = .lock ∨ (s.link p).state = .measure ∨ (s.link p).state = .active
    s.sendFrames.link p =
      { s.link p with
        lane :=
          if transmits then
            some
              { address := p.val + 1, sequence := s.clock.current, grant := (s.linkPool p).grant
                trip := active && (s.tripState p).trip.set, transferTrip := active && (s.tripState p).transfer.set
                order := if active then (s.tripState p).inFlight.map Flight.order else none }
          else none }) ∧
  ∀ f : DownFrame,
    let content : List Byte :=
      byte1 f.address ++ byte2 f.sequence.toNat ++ byte2 f.grant.toNat ++
        byte1 ((if f.trip then 2 else 0) + (if f.transferTrip then 1 else 0)) ++
        (match f.order with
         | none => byte1 0 ++ byte1 0 ++ byte2 0
         | some o =>
           byte1 (match o.kind with | .testTrip => 1 | .ping => 2 | .enterTest => 3 | .leaveTest => 4 | .resetUnit => 5) ++
             byte1 o.tag ++ byte2 o.argument)
    f.bytes = byte2 0x4E2B ++ content ++ byte2 (crc16 content).toNat

/-- An error event (R76, R77): its counter rises and holds, LINK_ERRORS at multiples of 64; only the suppressed count in MAINTENANCE. -/
def Obligations.ErrorsAreCountedOrSuppressed : Prop :=
  ∀ (p : Pos) (k : ErrorKind) (s : State),
    let n := (s.link p).errors.get k
    let counted := s.modLink p fun l =>
      { l with errors :=
        { l.errors with
          crc := if k = .crc then upTo16 l.errors.crc else l.errors.crc
          address := if k = .address then upTo16 l.errors.address else l.errors.address
          late := if k = .late then upTo16 l.errors.late else l.errors.late
          duplicate := if k = .duplicate then upTo16 l.errors.duplicate else l.errors.duplicate
          overrun := if k = .overrun then upTo16 l.errors.overrun else l.errors.overrun
          syncLoss := if k = .syncLoss then upTo16 l.errors.syncLoss else l.errors.syncLoss } }
    s.countError p k =
      if (s.bay p).service = .maintenance then
        s.modLink p fun l => { l with errors := { l.errors with suppressed := upTo16 l.errors.suppressed } }
      else if n < 65535 ∧ (n + 1) % 64 = 0 then counted.post { subject := .link p, detail := .linkErrors k (n + 1) }
      else counted

/-! ### Frame Pool -/

/-- REALLOCATE (R91 to R94): the checks in order, a growth or a shrink of a closed link at once, a shrink of an open link begun. The
reply about a bay number that is no bay carries fields no rule gives a value (log entry 9). -/
def Obligations.ReallocateChecksAndApplies : Prop :=
  (∀ bays : Table BayRecord, freeBudget bays = 512 - allocations bays allPos) ∧
  ∀ (b a : Nat) (s : State), powered s →
    (bayOf b = none → exec (.reallocate b a) s = .next (answered s .badValue (.poolOfNoBay b (freeBudget s.bays)))) ∧
    ∀ p, bayOf b = some p →
      let reply (t : State) (c : ResultCode) : State :=
        answered t c
          (.pool
            { alloc := (t.bay p).alloc, span := (t.linkPool p).span, grant := (t.linkPool p).grant
              stalled := (t.linkPool p).stalled } (freeBudget t.bays))
      let charged := s.modBay p fun r => { r with alloc := a }
      let applied := charged.modPool p fun q =>
        { q with span := a, grant := s.releaseUnit.next + seqOf a - 1, stalled := false }
      let shrinking := (charged.modPool p fun q => { q with stalled := true }).modLink p fun l =>
        { l with op := { kind := .reallocate, state := .busy, result := none, wake := false } }
      exec (.reallocate b a) s = .next
        (if 64 < a then reply s .badValue
         else if (s.bay p).configured = false then reply s .notConfigured
         else if (s.link p).op.state = .busy then reply s .busy
         else if a < s.controller.station.depth + 1 then reply s .belowDepth
         else if a = (s.bay p).alloc then reply s .ok
         else if (s.bay p).alloc < a then
          (if freeBudget s.bays + (s.bay p).alloc < a then reply s .noPool else reply applied .ok)
         else if (s.link p).state = .down ∨ (s.link p).state = .dormant then reply applied .ok
         else if a < (s.linkPool p).frames.length then reply s .badState
         else reply shrinking .accepted)

/-- DRAIN_COMPLETE (R95): a stalled link whose held span is at or below ALLOC has its allocation applied; another is left alone.
The row taken singly is log entry 3, a span of half the range log entry 16. -/
def Obligations.DrainEndsAtTheNewAllocation : Prop :=
  ∀ (p : Pos) (s : State), powered s →
    let heldSpan := ((s.linkPool p).grant - s.releaseUnit.next).toInt + 1
    ((s.linkPool p).stalled = true → heldSpan ≤ (s.bay p).alloc → exec (.drainComplete p) s = .next
      (((s.modPool p fun q =>
          { q with
            span := (s.bay p).alloc, grant := s.releaseUnit.next + seqOf (s.bay p).alloc - 1, stalled := false }).modLink p fun l =>
          { l with op := { l.op with state := .done, result := some .ok } }).post
        { subject := .bay p, detail := .linkOpDone (s.link p).op.kind .ok (s.link p).op.wake })) ∧
    ((s.linkPool p).stalled = false ∨ (s.bay p).alloc < heldSpan → exec (.drainComplete p) s = .next s)

/-! ### Differential Evaluator and Zone Supervision -/

/-- Id, Ir and the tests of a phase (R102, R103, R106, R108); windows and histories (R105, R107): a mark or an Ir value joins the
tail, and the head goes when the list is full; the evaluation of an effective zone and of the check zone with what is handed on (R100,
R105 to R110). -/
def Obligations.SumsMarksAndWindows : Prop :=
  (∀ (g : Settings) (hands : Table BayHand) (z : EffZone) (st : ZoneState),
    let ms := z.members
    let c := st.classifier.state
    let t := (evaluateZone g hands z st).1
    let h := (evaluateZone g hands z st).2
    let whole : Prop := ∀ m ∈ ms, (hands.get m.bay).present = true
    t = { st with eval := t.eval } ∧
    (∀ ph, t.eval.windows.get ph = pushMark g.w (operateMark g c hands ms ph) (st.eval.windows.get ph)) ∧
    (whole → ∀ ph, t.eval.history.get ph = pushIr (irOf hands ms ph) (st.eval.history.get ph)) ∧
    (¬ whole → t.eval.history = st.eval.history) ∧
    t.eval.last = some h.result ∧ (h.result.complete = true ↔ whole) ∧
    (∀ ph, h.result.phases.get ph =
      phaseLast (operateThreshold g c) (idOf hands ms ph) (irOf hands ms ph) (normalTest g hands ms ph)
        (operateMark g c hands ms ph) (t.eval.windows.get ph)) ∧
    h.name = st.name ∧ h.changed = z.changed ∧
    (whole → ∀ ph, h.historyLength.get ph = some (st.eval.history.get ph).length ∧
      h.reference.get ph = referenceOf (st.eval.history.get ph)) ∧
    (¬ whole → ∀ ph, h.historyLength.get ph = none ∧ h.reference.get ph = none)) ∧
  (∀ (g : Settings) (hands : Table BayHand) (z : CheckZone) (st : CheckState),
    let ms : List Member := z.members.map fun p => { bay := p, minus := false }
    let t := (evaluateCheck g hands z st).1
    let h := (evaluateCheck g hands z st).2
    t.cts = st.cts ∧ t.last = some h.result ∧ h.changed = z.changed ∧
    (h.result.complete = true ↔ ∀ p ∈ z.members, (hands.get p).present = true) ∧
    ∀ ph, t.windows.get ph = pushMark g.w (checkMark g hands ms ph) (st.windows.get ph) ∧
      h.result.phases.get ph =
        phaseLast g.czM (idOf hands ms ph) (irOf hands ms ph) false (checkMark g hands ms ph) (t.windows.get ph)) ∧
  (∀ (s : State) (pic : Picture) (hands : Table BayHand),
    s.evaluated pic hands =
      ((pic.zones.filter fun z => !z.members.isEmpty).map fun z =>
        evaluateZone s.active hands z ((s.zones.find? fun st => st.name == z.name).getD (.fresh z.name))) ∧
    s.evaluatedCheck pic hands =
      (if pic.check.members = [] then none else some (evaluateCheck s.active hands pic.check (s.check.getD .fresh))) ∧
    s.evaluate pic hands =
      { s with zones := (s.evaluated pic hands).map Prod.fst, check := (s.evaluatedCheck pic hands).map Prod.fst }) ∧
  (∀ (g : Settings) (c : Classifier) (hands : Table BayHand) (ms : List Member) (ph : Phase),
    let present := ms.filter fun m => (hands.get m.bay).present
    let current (m : Member) : Int := (hands.get m.bay).currents.get ph
    let signed : Int := (present.map fun m => if m.minus then -current m else current m).sum
    let restraint : Nat := (present.map fun m => (current m).natAbs).sum
    idOf hands ms ph = min signed.natAbs 2147483647 ∧ irOf hands ms ph = min restraint 2147483647 ∧
    idOf hands ms ph ≤ irOf hands ms ph ∧
    (operateMark g c hands ms ph = true ↔
      (∀ m ∈ ms, (hands.get m.bay).present = true) ∧ g.idmin ≤ idOf hands ms ph ∧
      (if c = .external then g.slopeX else g.slope) * irOf hands ms ph ≤ idOf hands ms ph * 64) ∧
    (normalTest g hands ms ph = true ↔
      (∀ m ∈ ms, (hands.get m.bay).present = true) ∧ g.idmin ≤ idOf hands ms ph ∧
      g.slope * irOf hands ms ph ≤ idOf hands ms ph * 64) ∧
    (checkMark g hands ms ph = true ↔
      (∀ m ∈ ms, (hands.get m.bay).present = true) ∧ g.czIdmin ≤ idOf hands ms ph ∧
      g.czSlope * irOf hands ms ph ≤ idOf hands ms ph * 64) ∧
    operateThreshold g c = if c = .external then g.w else g.m) ∧
  ((∀ (w : Nat) (m : Bool) (win : List Bool), win.length ≤ w →
    (pushMark w m win).length ≤ w ∧
    (win.length < w → pushMark w m win = win ++ [m]) ∧ (win.length = w → pushMark w m win = (win ++ [m]).tail)) ∧
  ∀ (ir : Nat) (h : List Nat), h.length ≤ 4 →
    (pushIr ir h).length ≤ 4 ∧ (h.length < 4 → pushIr ir h = h ++ [ir] ∧ referenceOf h = none) ∧
    (h.length = 4 → pushIr ir h = (h ++ [ir]).tail ∧ referenceOf h = h.head?))

/-- The classifier work of a release (R120 to R124), and SPAN_END, EVOLVING_FAULT and RETURN_TO_QUIET (R122, R123, R124), each alone:
log entry 3. -/
def Obligations.ClassifierRows : Prop :=
  (∀ (g : Settings) (h : ZoneHand) (c : ClassifierState),
    let r := h.result.phases
    let count (m : PhaseResult) (n : Nat) : Nat := if m.mark then n + 1 else n
    let marks : PerPhase Nat := ⟨count r.l1 c.onsetMarks.l1, count r.l2 c.onsetMarks.l2, count r.l3 c.onsetMarks.l3⟩
    let run (m : PhaseResult) (n : Nat) : Nat := if m.normal then n + 1 else 0
    let runs : PerPhase Nat := ⟨run r.l1 c.evolving.l1, run r.l2 c.evolving.l2, run r.l3 c.evolving.l3⟩
    let below : Bool := decide (r.l1.ir < g.irreset ∧ r.l2.ir < g.irreset ∧ r.l3.ir < g.irreset)
    let onset : Prop := ∃ ph ref, h.reference.get ph = some ref ∧ ref + g.onsetStep ≤ (r.get ph).ir
    (h.result.complete = false → classifierStep g h c = c) ∧
    (h.result.complete = true →
      (c.state = .quiet →
        (¬ onset → classifierStep g h c = c) ∧
        (onset → classifierStep g h c =
          { c with
            state := .onset, span := 1
            onsetMarks := ⟨if r.l1.mark then 1 else 0, if r.l2.mark then 1 else 0, if r.l3.mark then 1 else 0⟩ })) ∧
      (c.state = .onset →
        (c.span + 1 < g.onsetSpan → classifierStep g h c = { c with span := c.span + 1, onsetMarks := marks }) ∧
        (g.onsetSpan ≤ c.span + 1 →
          let inside : Prop := g.onsetSpan ≤ 2 * marks.l1 ∨ g.onsetSpan ≤ 2 * marks.l2 ∨ g.onsetSpan ≤ 2 * marks.l3
          classifierStep g h c =
            { state := if inside then .internal else .external
              span := 0, onsetMarks := ⟨0, 0, 0⟩, quiet := 0, evolving := if inside then c.evolving else ⟨0, 0, 0⟩ })) ∧
      (c.state = .internal → classifierStep g h c = quietCounted g below c) ∧
      (c.state = .external → classifierStep g h c =
        if g.onsetSpan ≤ runs.l1 ∨ g.onsetSpan ≤ runs.l2 ∨ g.onsetSpan ≤ runs.l3 then
          { c with state := .internal, evolving := ⟨0, 0, 0⟩, quiet := 0 }
        else quietCounted g below { c with evolving := runs }))) ∧
  ∀ (z : BusZone) (marks : PerPhase Bool) (s : State), powered s →
    let one (b : Bool) : Nat := if b then 1 else 0
    let run (b : Bool) (n : Nat) : Nat := if b then n + 1 else 0
    let g := s.settings.active
    exec (.spanEnd z marks) s = .next
      { s with zones := s.zones.map fun st =>
        if st.name = z ∧ st.classifier.state = .onset ∧ g.onsetSpan ≤ st.classifier.span + 1 then
          let o := st.classifier.onsetMarks
          let inside : Prop :=
            g.onsetSpan ≤ 2 * (o.l1 + one marks.l1) ∨ g.onsetSpan ≤ 2 * (o.l2 + one marks.l2) ∨ g.onsetSpan ≤ 2 * (o.l3 + one marks.l3)
          { st with classifier :=
            { state := if inside then .internal else .external
              span := 0, onsetMarks := ⟨0, 0, 0⟩, quiet := 0
              evolving := if inside then st.classifier.evolving else ⟨0, 0, 0⟩ } }
        else st } ∧
    exec (.evolvingFault z marks) s = .next
      { s with zones := s.zones.map fun st =>
        let e := st.classifier.evolving
        if st.name = z ∧ st.classifier.state = .external ∧
            (g.onsetSpan ≤ run marks.l1 e.l1 ∨ g.onsetSpan ≤ run marks.l2 e.l2 ∨ g.onsetSpan ≤ run marks.l3 e.l3) then
          { st with classifier := { st.classifier with state := .internal, evolving := ⟨0, 0, 0⟩, quiet := 0 } }
        else st } ∧
    exec (.returnToQuiet z) s = .next
      { s with zones := s.zones.map fun st =>
        if st.name = z ∧ (st.classifier.state = .internal ∨ st.classifier.state = .external) ∧
            g.quietSpan ≤ min (st.classifier.quiet + 1) 4800 then
          { st with classifier := { st.classifier with state := .quiet, quiet := 0, evolving := ⟨0, 0, 0⟩ } }
        else st }

/-- The CTS counters and indications (R125), the turn of Zone Supervision over the zones and the check zone (R120, R126, R127), and
CT_SUPERVISION (R39, R125 to R127): a counter reaches CTS_SPAN on some phase. The row taken singly is log entry 3. -/
def Obligations.CtSupervisionSetsCts : Prop :=
  (∀ (g : Settings) (standing : PerPhase Bool) (c : CtsState) (ph : Phase),
    let n := c.counter.get ph
    (c.step g standing).counter.get ph =
      (if standing.get ph = true then (if c.reported.get ph = true then n else n + 1) else 0) ∧
    ((c.reaching g standing).get ph = true ↔ standing.get ph = true ∧ c.reported.get ph = false ∧ g.ctsSpan ≤ n + 1) ∧
    ((c.step g standing).reported.get ph = true ↔
      standing.get ph = true ∧ (c.reported.get ph = true ∨ g.ctsSpan ≤ n + 1))) ∧
  (∀ (g : Settings) (s : State) (h : ZoneHand),
    (s.zones.find? (fun y => y.name == h.name) = none → State.superviseZone g s h = s) ∧
    ∀ st, s.zones.find? (fun y => y.name == h.name) = some st →
      let moved := { st with classifier := classifierStep g h st.classifier }
      let standing : PerPhase Bool := h.result.phases.map fun r =>
        decide (h.result.complete = true ∧ moved.classifier.state = .quiet ∧ g.ctsLevel ≤ r.id ∧ r.id < g.idmin)
      let reach := st.cts.reaching g standing
      let kept : State :=
        { s with zones := s.zones.map fun y => if y.name = st.name then { moved with cts := st.cts.step g standing } else y }
      State.superviseZone g s h =
        if reach.phases = [] then kept
        else kept.requestCts st.name (reach.phases.map fun ph => (ph, (h.result.phases.get ph).id))) ∧
  (∀ (g : Settings) (s : State) (h : Option CheckHand),
    (s.check = none ∨ h = none → State.superviseCheck g h s = s) ∧
    ∀ c k, s.check = some c → h = some k →
      let standing : PerPhase Bool := k.result.phases.map fun r =>
        decide (k.result.complete = true ∧ (∀ st ∈ s.zones, st.classifier.state = .quiet) ∧ g.ctsLevel ≤ r.id ∧ r.id < g.czIdmin)
      let reach := c.cts.reaching g standing
      let kept : State := { s with check := some { c with cts := c.cts.step g standing } }
      State.superviseCheck g h s =
        if reach.phases = [] then kept
        else kept.requestCheckCts (reach.phases.map fun ph => (ph, (k.result.phases.get ph).id))) ∧
  (∀ (s : State) (g : Settings) (hands : List ZoneHand) (check : Option CheckHand),
    s.supervise g hands check =
      State.superviseCheck g check (hands.foldl (fun u h => State.superviseZone g u h) s)) ∧
  ∀ (ids : PerPhase Nat) (pic : Picture) (s : State), powered s → s.replica.picture = some pic →
    (∀ (st : ZoneState) (z : EffZone), s.zones.find? (fun y => y.name == st.name) = some st →
      pic.zones.find? (fun y => y.name == st.name) = some z → st.classifier.state = .quiet →
      let standing := ids.map fun i => decide (s.active.ctsLevel ≤ i ∧ i < s.active.idmin)
      let reach := st.cts.reaching s.active standing
      reach.phases ≠ [] →
      exec (.ctSupervision (some st.name) ids) s = .next
        ((State.post
          { s with
            zones := s.zones.map fun y => if y.name = st.name then { st with cts := st.cts.step s.active standing } else y
            replica :=
              { s.replica with
                busZones := s.replica.busZones.map fun y => if z.zones.contains y.zone then { y with cts := true } else y
                picture := some
                  { pic with zones := pic.zones.map fun y =>
                    if y.name = st.name then { y with reasons := { y.reasons with cts := y.zones } } else y } } }
          { subject := .busZone st.name
            detail := .ctSupervision (some st.name) z.zones (reach.phases.map fun ph => (ph, ids.get ph)) }).reportZone
          { z with reasons := { z.reasons with cts := z.zones } })) ∧
    ∀ c : CheckState, s.check = some c → (∀ st ∈ s.zones, st.classifier.state = .quiet) →
      let standing := ids.map fun i => decide (s.active.ctsLevel ≤ i ∧ i < s.active.czIdmin)
      let reach := c.cts.reaching s.active standing
      reach.phases ≠ [] →
      exec (.ctSupervision none ids) s = .next
        ((State.post
          { s with
            check := some { c with cts := c.cts.step s.active standing }
            replica :=
              { s.replica with checkCts := true, picture := some { pic with check := { pic.check with cts := true } } } }
          { subject := .nobody
            detail := .ctSupervision none [] (reach.phases.map fun ph => (ph, ids.get ph)) }).reportCheck
          { pic.check with cts := true })

/-! ### Trip Unit -/

/-- The connected bays of an effective zone (R136). -/
def Obligations.ConnectedBaysOfAZone : Prop :=
  ∀ (bays : Table BayRecord) (zs : List BusZone),
    (∀ p, p ∈ connectedBays bays zs ↔
      (bays.get p).service = .inService ∧
      (((bays.get p).kind = .feeder ∧
          (((bays.get p).effective .isolatorA = .closed ∧ zoneA (bays.get p).sectionNo ∈ zs) ∨
            ((bays.get p).effective .isolatorB = .closed ∧ zoneB (bays.get p).sectionNo ∈ zs))) ∨
        ((bays.get p).kind = .coupler ∧ (zoneA (bays.get p).sectionNo ∈ zs ∨ zoneB (bays.get p).sectionNo ∈ zs)) ∨
        ((bays.get p).kind = .sectionBay ∧ (zoneOne (bays.get p).bus ∈ zs ∨ zoneTwo (bays.get p).bus ∈ zs)))) ∧
    (connectedBays bays zs).Pairwise (· < ·)

/-- The conditions of a differential decision (R135), and what a decision does (R137): the flag with its target list, the latches of
every connected bay, no record where none was clear, and otherwise the record with its stamp (R51, R147), TRIP and the timing starts
(R142). The second part of the Trip Unit's work in its order (R134), and the start by BFI with its retrip (R142). -/
def Obligations.DecisionLatchesConnectedBays : Prop :=
  (∀ (s : State) (q : Seq) (hands : Table BayHand) (timing : List Pos),
    let decided := match s.replica.picture with
      | none => s
      | some pic =>
        pic.zones.foldl
          (fun u z => match u.zones.find? fun st => st.name == z.name with
            | none => u
            | some st => if u.decides pic.check.blocked z st = true then u.decideZone q z st else u) s
    let begun := (allPos.filter fun p => (hands.get p).bfiEdge).foldl (fun u p => u.initiate p q) decided
    s.tripWork q hands timing = timing.foldl
      (fun u p =>
        if (u.tripState p).bf = .timing then
          u.advanceBay p q (if (hands.get p).present then some (hands.get p).currents else none)
        else u) begun) ∧
  (∀ (s : State) (p : Pos) (q : Seq),
    (¬ ((s.bay p).service = .inService ∧ (s.tripState p).bf = .idle) → s.initiate p q = s) ∧
    ((s.bay p).service = .inService → (s.tripState p).bf = .idle →
      let timed := timingStarted (s.setLatch p .trip q) p .bfi
      s.initiate p q =
        if (s.tripState p).trip.set then timed else timed.post { subject := .bay p, detail := .tripRetrip q })) ∧
  (∀ (c : Clock) (q : Seq), (c.stamp q).count = c.markCount ∧ (c.stamp q).offset = (q - c.atMark).toInt ∧
    ((c.stamp q).stale = true ↔ c.marked = false ∨ 32767 < c.sinceMark)) ∧
  (∀ (s : State) (q : Seq) (z : EffZone) (st : ZoneState),
    let targets := connectedBays s.bays z.zones
    let newly := targets.filter fun p => !(s.tripState p).trip.set
    let flagged : State :=
      { s with zones := s.zones.map fun y => if y.name = st.name then { st with flag := some targets } else y }
    let latched := newly.foldl (fun u p => u.setLatch p .trip q) flagged
    let tripped : List TrippedPhase := match st.eval.last, s.check.bind CheckState.last with
      | some r, some k => (s.tripPhases st).map fun ph =>
          { phase := ph, id := (r.phases.get ph).id, ir := (r.phases.get ph).ir, checkId := (k.phases.get ph).id }
      | _, _ => []
    s.decideZone q z st =
      if newly = [] then latched
      else
        newly.foldl (fun u p => timingStarted u p .decision)
          (recorded latched
            (fun i =>
              { id := i, cause := .differential st.classifier.state tripped, zones := z.zones, phases := s.tripPhases st
                sequence := q, stamp := s.clock.stamp q, bays := newly })
            false q
            (fun i =>
              { subject := .busZone z.name, detail := .tripDecision z.name z.zones (s.tripPhases st) newly q i }))) ∧
  ∀ (s : State) (q : Seq) (checkBlocked : Bool) (z : EffZone) (st : ZoneState),
    (s.decides checkBlocked z st = true ↔
      z.members ≠ [] ∧ (s.tripPhases st ≠ []) ∧ z.blocked = false ∧ checkBlocked = false ∧ st.flag = none) ∧
    (∀ r k c, st.eval.last = some r → s.check = some c → c.last = some k →
      ∀ ph, ph ∈ s.tripPhases st ↔ (r.phases.get ph).operating = true ∧ (k.phases.get ph).operating = true) ∧
    (st.eval.last = none ∨ s.check = none → s.tripPhases st = []) ∧
    let t := s.decideZone q z st
    (∀ p ∈ connectedBays s.bays z.zones, (t.tripState p).trip.set = true) ∧
    (∀ y ∈ t.zones, y.name = st.name → y.flag = some (connectedBays s.bays z.zones)) ∧
    ((∀ p ∈ connectedBays s.bays z.zones, (s.tripState p).trip.set = true) → t.trip = s.trip ∧ t.port = s.port) ∧
    (∀ p, p ∉ connectedBays s.bays z.zones → t.tripState p = s.tripState p)

/-- A latch set at a release (R139, R153), and its confirmation (R140). The Trip Unit's first part at a
release (R134, R140). -/
def Obligations.LatchesAreSetAndConfirmed : Prop :=
  (∀ (q : Seq) (hands : Table BayHand) (s : State) (p : Pos),
    let h := hands.get p
    State.acknowledge q hands s p =
      if h.consumed then
        (s.modTrip p fun t =>
          { t with trip := t.trip.confirm h.tripSeen, transfer := t.transfer.confirm h.transferSeen }).completeOrder p q h.echo.toNat
      else s) ∧
  (∀ (q : Seq) (hands : Table BayHand) (s : State), s.acknowledgeAll q hands = allPos.foldl (fun u p => State.acknowledge q hands u p) s) ∧
  (∀ (s : State) (p : Pos) (k : LatchKind) (q : Seq),
    let t := s.setLatch p k q
    (((s.tripState p).latch k).set = true → t = s) ∧
    (((s.tripState p).latch k).set = false →
      let latch : Latch := { set := true, confirmed := false, echo := some s.active.echoSpan, sequence := q }
      t = (s.modTrip p fun u =>
        { u with
          trip := if k = .trip then latch else u.trip
          transfer := if k = .transferTrip then latch else u.transfer
          inFlight := none, reserved := none }).postAll (cancellations s p (fun _ => true) .latch))) ∧
  ∀ (seen : Bool) (l : Latch), l.confirm seen =
    if l.set = true ∧ l.confirmed = false ∧ seen = true then { l with confirmed := true, echo := none } else l

/-- TRIP_UNCONFIRMED (R140): the echo timer of a latch has one SP left. ORDER_DONE and ORDER_TIMEOUT (R152): the flight ends, and a
reserved order moves into flight with a fresh timer.
The rows taken singly are log entry 3. -/
def Obligations.EchoAndOrderTimersEnd : Prop :=
  (∀ (s : State) (p : Pos) (q : Seq) (echo : Nat),
    (∀ f, (s.tripState p).inFlight = some f → f.order.tag = echo → s.completeOrder p q echo =
      (landed s p).post { subject := .bay p, detail := .orderDone f.order.kind f.order.tag q }) ∧
    ((∀ f, (s.tripState p).inFlight = some f → f.order.tag ≠ echo) → s.completeOrder p q echo = s)) ∧
  (∀ (p : Pos) (s : State), powered s →
    ((s.tripState p).trip.echo = some 1 → exec (.tripUnconfirmed p .trip) s = .next
      ((s.modTrip p fun t => { t with trip := { t.trip with echo := none } }).post
        { subject := .bay p, detail := .tripUnconfirmed .trip (s.tripState p).trip.sequence })) ∧
    ((s.tripState p).transfer.echo = some 1 → exec (.tripUnconfirmed p .transferTrip) s = .next
      ((s.modTrip p fun t => { t with transfer := { t.transfer with echo := none } }).post
        { subject := .bay p, detail := .tripUnconfirmed .transferTrip (s.tripState p).transfer.sequence })) ∧
    ∀ k, ((s.tripState p).latch k).echo = none → exec (.tripUnconfirmed p k) s = .next s) ∧
  (∀ (p : Pos) (s : State), powered s →
    let landed := s.modTrip p fun t =>
      { t with inFlight := t.reserved.map fun o => { order := o, timer := s.active.echoSpan }, reserved := none }
    ((s.tripState p).inFlight = none → exec (.orderDone p) s = .next s ∧ exec (.orderTimeout p) s = .next s) ∧
    ∀ f, (s.tripState p).inFlight = some f →
      exec (.orderDone p) s = .next
        (landed.post { subject := .bay p, detail := .orderDone f.order.kind f.order.tag s.releaseUnit.next }) ∧
      (f.timer = 1 → exec (.orderTimeout p) s = .next
        (landed.post { subject := .bay p, detail := .orderTimeout f.order.kind f.order.tag })))

/-- SEND_ORDER (R151, R152). -/
def Obligations.SendOrderFliesOrReserves : Prop :=
  ∀ (b k a : Nat) (s : State), powered s →
    (bayOf b = none ∨ 4 < k → exec (.sendOrder b k a) s = .next (answered s .badValue)) ∧
    ∀ (p : Pos) (kind : OrderKind), bayOf b = some p → orderKindOf k = some kind →
      let inRange : Prop := match kind with
        | .testTrip => 1 ≤ a ∧ a ≤ 2400
        | .ping => a ≤ 65535
        | .enterTest => a ≤ 3600
        | .leaveTest => a = 0
        | .resetUnit => a ≤ 1
      let t := s.tripState p
      let tag := if 255 ≤ t.lastTag then 1 else t.lastTag + 1
      let order : Order := { kind := kind, tag := tag, argument := a }
      (¬ inRange → exec (.sendOrder b k a) s = .next (answered s .badValue)) ∧
      (inRange → exec (.sendOrder b k a) s = .next
        (if (s.bay p).configured = false then answered s .notConfigured
         else if (kind = .testTrip ∧ (s.bay p).service ≠ .maintenance) ∨ (kind = .resetUnit ∧ (s.bay p).service = .inService) then
          answered s .badState
         else if (s.link p).state ≠ .active then answered s .linkNotActive
         else if t.trip.set = true ∨ t.transfer.set = true then answered s .tripLatched
         else if t.inFlight ≠ none ∧ t.reserved ≠ none then answered s .busy
         else if t.inFlight = none then
          answered (s.modTrip p fun t =>
            { t with inFlight := some { order := order, timer := s.active.echoSpan }, lastTag := tag }) .sent (.tag tag)
         else answered (s.modTrip p fun t => { t with reserved := some order, lastTag := tag }) .reserved (.tag tag)))

/-- A release of a TIMING bay (R143), the judgement at its expiry (R144), and BF_CLEARED and BF_EXPIRY. On a failure: the record
FAILED, the back-trip latching every connected bay and a failed feeder's transfer-trip latch with the timing starts (R145, R142), the
trip record and BF_FAILED (R146, R147), and nothing else. The rows taken singly are log entry 3. -/
def Obligations.BreakerFailureTimingEnds : Prop :=
  (∀ (s : State) (p : Pos) (q : Seq) (seen : Option (PerPhase Int)),
    let shows : Prop := reasonsFailed s p seen = []
    let n := if shows then (s.tripState p).clear + 1 else 0
    s.advanceBay p q seen =
      if 2 ≤ n then s.modTrip p fun t => { t with bf := .idle, remaining := 0, clear := 0, cause := none }
      else if (s.tripState p).remaining ≤ 1 then s.expire p q seen
      else s.modTrip p fun t => { t with clear := n, remaining := t.remaining - 1 }) ∧
  (∀ (s : State) (p : Pos) (q : Seq) (seen : Option (PerPhase Int)),
    let reasons := reasonsFailed s p seen
    let trips := backTripped s p
    let feeder := (s.bay p).kind = .feeder
    let failed := s.modTrip p fun t => { t with bf := .failed, remaining := 0, clear := 0 }
    let latched := trips.foldl (fun u x => u.setLatch x .trip q) failed
    let timed := trips.foldl (fun u x => timingStarted u x .backTrip)
      (if feeder then latched.setLatch p .transferTrip q else latched)
    let newly := allPos.filter fun x =>
      trips.contains x || decide (x = p ∧ feeder ∧ (s.tripState p).transfer.set = false)
    let cause := (s.tripState p).cause
    let report (i : Option Nat) : Report := { subject := .bay p, detail := .bfFailed reasons seen cause newly q i }
    let make (i : Nat) : TripRecord :=
      { id := i, cause := .breakerFailure p reasons cause, zones := (backTrip s p).flatMap EffZone.zones
        phases := match seen with
          | none => []
          | some i => ([.l1, .l2, .l3] : List Phase).filter fun ph => decide (s.active.ibf ≤ (i.get ph).natAbs)
        sequence := q, stamp := s.clock.stamp q, bays := newly }
    (reasons = [] → s.expire p q seen = s.modTrip p fun t => { t with bf := .idle, remaining := 0, clear := 0, cause := none }) ∧
    (reasons ≠ [] →
      s.expire p q seen = (if newly = [] then timed.post (report none) else recorded timed make true q report) ∧
      let t := s.expire p q seen
      t = { s with trip := t.trip, port := t.port } ∧
      (t.tripState p).bf = .failed ∧ (t.tripState p).remaining = 0 ∧ (t.tripState p).clear = 0 ∧ (t.tripState p).cause = cause ∧
      (feeder → (t.tripState p).transfer.set = true) ∧
      (∀ z ∈ backTrip s p, ∀ x ∈ connectedBays s.bays z.zones, (t.tripState x).trip.set = true) ∧
      (∀ x, x ≠ p → x ∉ trips → t.tripState x = s.tripState x) ∧
      ∀ x ∈ trips, x ≠ p → (s.tripState x).bf = .idle →
        (t.tripState x).bf = .timing ∧ (t.tripState x).remaining = s.active.bfTime ∧ (t.tripState x).cause = some .backTrip)) ∧
  ∀ (p : Pos) (s : State), powered s → s.controller.protection = .running → (s.tripState p).bf = .timing →
    ((s.bay p).effective .breaker = .opened → 1 ≤ (s.tripState p).clear → exec (.bfCleared p) s = .next
      (s.modTrip p fun t => { t with bf := .idle, remaining := 0, clear := 0, cause := none })) ∧
    ∀ seen : Option (PerPhase Int), (s.tripState p).clear = 0 ∨ reasonsFailed s p seen ≠ [] → (s.tripState p).remaining = 1 →
      exec (.bfExpiry p seen) s = .next (s.expire p s.releaseUnit.next seen)

/-- RESET_TRIP of one bay (R138, R141): the checks in order, and the clearing, with the trip flags examined. With ALL, each configured bay
that holds a latch or a FAILED state is looked at in ascending bay number: those that pass checks 4 and 5 are cleared one after another, the
others and every other bay keep their trip states, and the reply lists the bays reset and the bays refused with their codes.
That check 3's reply OK carries the bay's trip state is log entry 30. -/
def Obligations.ResetTripClearsLatches : Prop :=
  ∀ s : State, powered s →
    (∀ n, n ≠ 0 → bayOf n = none → exec (.resetTrip n) s = .next (answered s .badValue)) ∧
    (∀ n p, n ≠ 0 → bayOf n = some p → exec (.resetTrip n) s = .next
      (if (s.bay p).configured = false then answered s .notConfigured
       else if (s.tripState p).trip.set = false ∧ (s.tripState p).transfer.set = false ∧ (s.tripState p).bf ≠ .failed then
        answered s .ok (.trip (s.tripSummary p))
       else if flows s p = true then answered s .currentFlowing
       else if (s.tripState p).bf = .timing then answered s .bfRunning
       else answered (tripReset s p) .ok (.trip ((tripReset s p).tripSummary p)))) ∧
    let holding := allPos.filter fun p =>
      (s.bay p).configured && ((s.tripState p).trip.set || (s.tripState p).transfer.set || (s.tripState p).bf == .failed)
    let passing := holding.filter fun p => !flows s p && (s.tripState p).bf != .timing
    let refused := holding.filter fun p => flows s p || (s.tripState p).bf == .timing
    let reset := passing.foldl tripReset s
    exec (.resetTrip 0) s = .next
      (answered reset .ok
        (.resetAll passing (refused.map fun p => (p, if flows s p then .currentFlowing else .bfRunning)))) ∧
    ∀ p, reset.tripState p = if p ∈ passing then unlatched (s.tripState p) else s.tripState p

/-- RELEASE_RECORD (R150), and the offer of a record to the table (R148). -/
def Obligations.RecordsAreStoredAndReleased : Prop :=
  (∀ (i : Nat) (s : State), powered s → exec (.releaseRecord i) s = .next
    (if ∃ r ∈ s.trip.records, r.id = i then
      answered { s with trip := { s.trip with records := s.trip.records.filter fun r => r.id != i } } .ok
        (.recordsHeld (s.trip.records.filter fun r => r.id != i).length)
     else answered s .noRecord)) ∧
  ∀ (u : TripUnit) (make : Nat → TripRecord) (bf : Bool) (q : Seq),
    (u.records.length < 8 → ∃ i, (u.offer make bf q).id = some i ∧ i ∉ u.records.map TripRecord.id ∧
      (∃ k, k < 256 ∧ i = (u.nextId + k) % 256 ∧ ∀ j, j < k → (u.nextId + j) % 256 ∈ u.records.map TripRecord.id) ∧
      (u.offer make bf q).unit = { u with records := u.records ++ [make i], nextId := (i + 1) % 256 } ∧
      (u.offer make bf q).follow =
        if u.records.length = 5 then [{ subject := .device, detail := .recordsNearlyFull 6 }] else []) ∧
    (8 ≤ u.records.length → (u.offer make bf q).id = none ∧ (u.offer make bf q).unit = { u with lost := upTo16 u.lost } ∧
      (u.offer make bf q).follow = [{ subject := .device, detail := .recordLost bf q (upTo16 u.lost) }])

/-! ### Settings Store -/

/-- Validation field by field (R155, R157), and STAGE_SETTINGS (R156). -/
def Obligations.StageSettingsValidates : Prop :=
  (∀ g : Settings, g.firstInvalid =
    if g.idmin < 100 ∨ 10000 < g.idmin then some .idmin
    else if g.slope < 16 ∨ 56 < g.slope then some .slope
    else if g.slopeX < g.slope ∨ 62 < g.slopeX then some .slopeX
    else if g.w ≠ 8 ∧ g.w ≠ 16 then some .w
    else if g.m < 2 ∨ g.w < g.m then some .m
    else if g.czIdmin < 100 ∨ 10000 < g.czIdmin then some .czIdmin
    else if g.czSlope < 8 ∨ 48 < g.czSlope then some .czSlope
    else if g.czM < 2 ∨ g.w < g.czM then some .czM
    else if g.onsetStep < 200 ∨ 20000 < g.onsetStep then some .onsetStep
    else if g.onsetSpan < 2 ∨ 12 < g.onsetSpan then some .onsetSpan
    else if g.irreset < 100 ∨ 5000 < g.irreset ∨ g.onsetStep ≤ g.irreset then some .irreset
    else if g.quietSpan < 24 ∨ 4800 < g.quietSpan then some .quietSpan
    else if g.ctsLevel < 20 ∨ 2000 < g.ctsLevel ∨ g.idmin ≤ g.ctsLevel ∨ g.czIdmin ≤ g.ctsLevel then some .ctsLevel
    else if g.ctsSpan < 240 ∨ 24000 < g.ctsSpan then some .ctsSpan
    else if g.ibf < 50 ∨ 5000 < g.ibf then some .ibf
    else if g.bfTime < 24 ∨ 1200 < g.bfTime then some .bfTime
    else if g.openDebounce < 1 ∨ 240 < g.openDebounce then some .openDebounce
    else if g.travelLimit < 240 ∨ 48000 < g.travelLimit then some .travelLimit
    else if g.echoSpan < 4 ∨ 240 < g.echoSpan then some .echoSpan else none) ∧
  ∀ (vs : List Nat) (s : State), powered s →
    (vs.length ≠ 19 → exec (.stageSettings vs) s = .next (answered s .badLength)) ∧
    ∀ g : Settings, vs = g.toList.map Prod.snd → exec (.stageSettings vs) s = .next
      (if s.settings.switchPending then
        answered s .pending (.staged none s.settings.stagedValid s.settings.firstInvalid)
       else
        answered
          { s with settings :=
            { s.settings with staged := g, stagedValid := g.firstInvalid.isNone, firstInvalid := g.firstInvalid } }
          (if g.firstInvalid = none then .ok else .badValue) (.staged g.firstInvalid g.firstInvalid.isNone g.firstInvalid))

/-- SWITCH_SETTINGS with cancel no and with cancel yes (R158, R160, R161). -/
def Obligations.SwitchSettingsExchangesOrWaits : Prop :=
  ∀ s : State, powered s →
    let unpended : SettingsStore := { s.settings with switchPending := false, passed := 0, lastReason := none }
    exec .switchSettings s = .next
      (if s.settings.switchPending then answered s .pending
       else if s.settings.stagedValid = false then answered s .noStaged
       else if s.controller.protection = .running then
        answered { s with settings := { s.settings with switchPending := true, passed := 0, lastReason := none } } .accepted
       else answered (s.exchange .request) .ok) ∧
    exec .switchSettingsCancel s = .next
      (answered { s with settings := if s.settings.switchPending then unpended else s.settings } .ok (.switchPending false))

/-- The decision at step 5 of a release, the boundary passed over with its count and reason (R58, R159), SETTINGS_SWITCHED at the
boundary release next_release, and the exchange of the groups taken whole (R160, R114). The row taken singly is log entry 3. -/
def Obligations.BoundarySwitchExchangesTheGroups : Prop :=
  (∀ (s : State) (q : Seq) (taken : Protection),
    let passedFor (r : PassReason) : State :=
      { s with settings := { s.settings with passed := upTo16 s.settings.passed, lastReason := some r } }
    s.decideBoundary q taken =
      if q.toNat % 256 = 255 ∧ s.settings.switchPending = true ∧ taken = .running then
        if ∃ p, (s.tripState p).latched = true then passedFor .latch
        else if ∀ st ∈ s.zones, st.classifier.state = .quiet then s.exchange (.boundary q)
        else passedFor .notQuiet
      else s) ∧
  (∀ (x : SwitchTrigger) (s : State), s.exchange x =
    State.post
      { s with
        settings :=
          { active := s.settings.staged, staged := s.settings.active, stagedValid := true, firstInvalid := none
            switchPending := false, passed := 0, lastReason := none }
        zones := s.zones.map fun st => { st with eval := { st.eval with windows := ⟨[], [], []⟩ } }
        check := s.check.map fun c => { c with windows := ⟨[], [], []⟩ } }
      { subject := .device
        detail := .settingsSwitched x s.settings.passed (differingFields s.settings.staged s.settings.active) }) ∧
  ∀ s : State, powered s → s.releaseUnit.next.toNat % 256 = 255 → s.settings.switchPending = true →
    s.controller.protection = .running → (∀ p, (s.tripState p).latched = false) →
    (∀ st ∈ s.zones, st.classifier.state = .quiet) →
    exec .settingsSwitched s = .next (s.exchange (.boundary s.releaseUnit.next))
end

