-- ==== Sys2Proof/Laws/State.lean ====
section
/-! SUPPORT. What each update of the state leaves: cells of tables, and one lemma per field per update. -/

namespace Sys2Proof.Machine

/-! ### Tables -/

theorem Table.ext_cells {α : Type} {t u : Table α} (h : t.cells = u.cells) : t = u := by
  cases t; cases u; cases h; rfl

@[simp] theorem Table.get_replicate {α : Type} (a : α) (p : Pos) : (Table.replicate a).get p = a := by
  simp only [Table.get, Table.replicate, List.get_eq_getElem, List.getElem_replicate]

@[simp] theorem Table.get_map {α β : Type} (f : α → β) (t : Table α) (p : Pos) : (t.map f).get p = f (t.get p) := by
  simp [Table.get, Table.map]

theorem Table.get_build {α : Type} (f : Pos → α) (p : Pos) : (Table.build f).get p = f p := by
  fin_cases p <;> rfl

@[simp] theorem Table.get_set_same {α : Type} (t : Table α) (p : Pos) (a : α) : (t.set p a).get p = a := by
  simp [Table.get, Table.set]

theorem Table.get_set_other {α : Type} (t : Table α) {p q : Pos} (h : q ≠ p) (a : α) : (t.set p a).get q = t.get q := by
  have : ¬ p.val = q.val := fun e => h (Fin.ext e.symm)
  simp [Table.get, Table.set, this]

@[simp] theorem Table.get_modify_same {α : Type} (t : Table α) (p : Pos) (f : α → α) : (t.modify p f).get p = f (t.get p) := by
  simp [Table.modify]

theorem Table.get_modify_other {α : Type} (t : Table α) {p q : Pos} (h : q ≠ p) (f : α → α) : (t.modify p f).get q = t.get q := by
  simp [Table.modify, Table.get_set_other t h]

theorem Table.get_modify {α : Type} (t : Table α) (p q : Pos) (f : α → α) :
    (t.modify p f).get q = if q = p then f (t.get q) else t.get q := by
  by_cases h : q = p
  · subst h; simp
  · simp [h, Table.get_modify_other t h]

/-- Every position is in the list of all positions. -/
theorem mem_allPos (p : Pos) : p ∈ allPos := by revert p; decide

theorem mem_where {α : Type} (t : Table α) (f : α → Bool) (p : Pos) : p ∈ t.where f ↔ f (t.get p) = true := by
  simp [Table.where, mem_allPos]

/-! ### Changes of one cell -/

@[simp] theorem bay_modBay (s : State) (p : Pos) (f : BayRecord → BayRecord) : (s.modBay p f).bay p = f (s.bay p) := by
  simp [State.bay, State.modBay]

theorem bay_modBay_other (s : State) {p q : Pos} (h : q ≠ p) (f : BayRecord → BayRecord) : (s.modBay p f).bay q = s.bay q :=
  Table.get_modify_other _ h f

@[simp] theorem link_modLink (s : State) (p : Pos) (f : LinkRecord → LinkRecord) : (s.modLink p f).link p = f (s.link p) := by
  simp [State.link, State.modLink]

theorem link_modLink_other (s : State) {p q : Pos} (h : q ≠ p) (f : LinkRecord → LinkRecord) : (s.modLink p f).link q = s.link q :=
  Table.get_modify_other _ h f

@[simp] theorem linkPool_modPool (s : State) (p : Pos) (f : LinkPool → LinkPool) :
    (s.modPool p f).linkPool p = f (s.linkPool p) := by
  simp [State.linkPool, State.modPool]

theorem linkPool_modPool_other (s : State) {p q : Pos} (h : q ≠ p) (f : LinkPool → LinkPool) :
    (s.modPool p f).linkPool q = s.linkPool q :=
  Table.get_modify_other _ h f

@[simp] theorem tripState_modTrip (s : State) (p : Pos) (f : TripState → TripState) :
    (s.modTrip p f).tripState p = f (s.tripState p) := by
  simp [State.tripState, State.modTrip]

theorem tripState_modTrip_other (s : State) {p q : Pos} (h : q ≠ p) (f : TripState → TripState) :
    (s.modTrip p f).tripState q = s.tripState q :=
  Table.get_modify_other _ h f

/-! ### modBay -/

@[simp] theorem pending_modBay (s : State) (p : Pos) (f : BayRecord → BayRecord) : (s.modBay p f).pending = s.pending := rfl
@[simp] theorem pins_modBay (s : State) (p : Pos) (f : BayRecord → BayRecord) : (s.modBay p f).pins = s.pins := rfl
@[simp] theorem clock_modBay (s : State) (p : Pos) (f : BayRecord → BayRecord) : (s.modBay p f).clock = s.clock := rfl
@[simp] theorem releaseUnit_modBay (s : State) (p : Pos) (f : BayRecord → BayRecord) : (s.modBay p f).releaseUnit = s.releaseUnit := rfl
@[simp] theorem controller_modBay (s : State) (p : Pos) (f : BayRecord → BayRecord) : (s.modBay p f).controller = s.controller := rfl
@[simp] theorem replica_modBay (s : State) (p : Pos) (f : BayRecord → BayRecord) : (s.modBay p f).replica = s.replica := rfl
@[simp] theorem links_modBay (s : State) (p : Pos) (f : BayRecord → BayRecord) : (s.modBay p f).links = s.links := rfl
@[simp] theorem pool_modBay (s : State) (p : Pos) (f : BayRecord → BayRecord) : (s.modBay p f).pool = s.pool := rfl
@[simp] theorem zones_modBay (s : State) (p : Pos) (f : BayRecord → BayRecord) : (s.modBay p f).zones = s.zones := rfl
@[simp] theorem check_modBay (s : State) (p : Pos) (f : BayRecord → BayRecord) : (s.modBay p f).check = s.check := rfl
@[simp] theorem trip_modBay (s : State) (p : Pos) (f : BayRecord → BayRecord) : (s.modBay p f).trip = s.trip := rfl
@[simp] theorem settings_modBay (s : State) (p : Pos) (f : BayRecord → BayRecord) : (s.modBay p f).settings = s.settings := rfl
@[simp] theorem port_modBay (s : State) (p : Pos) (f : BayRecord → BayRecord) : (s.modBay p f).port = s.port := rfl
@[simp] theorem lastReply_modBay (s : State) (p : Pos) (f : BayRecord → BayRecord) : (s.modBay p f).lastReply = s.lastReply := rfl
@[simp] theorem link_modBay (s : State) (p : Pos) (f : BayRecord → BayRecord) (q : Pos) : (s.modBay p f).link q = s.link q := rfl
@[simp] theorem linkPool_modBay (s : State) (p : Pos) (f : BayRecord → BayRecord) (q : Pos) : (s.modBay p f).linkPool q = s.linkPool q := rfl
@[simp] theorem tripState_modBay (s : State) (p : Pos) (f : BayRecord → BayRecord) (q : Pos) : (s.modBay p f).tripState q = s.tripState q := rfl
@[simp] theorem active_modBay (s : State) (p : Pos) (f : BayRecord → BayRecord) : (s.modBay p f).active = s.active := rfl
@[simp] theorem depth_modBay (s : State) (p : Pos) (f : BayRecord → BayRecord) : (s.modBay p f).depth = s.depth := rfl
@[simp] theorem next_modBay (s : State) (p : Pos) (f : BayRecord → BayRecord) : (s.modBay p f).next = s.next := rfl

/-! ### modLink -/

@[simp] theorem pending_modLink (s : State) (p : Pos) (f : LinkRecord → LinkRecord) : (s.modLink p f).pending = s.pending := rfl
@[simp] theorem pins_modLink (s : State) (p : Pos) (f : LinkRecord → LinkRecord) : (s.modLink p f).pins = s.pins := rfl
@[simp] theorem clock_modLink (s : State) (p : Pos) (f : LinkRecord → LinkRecord) : (s.modLink p f).clock = s.clock := rfl
@[simp] theorem releaseUnit_modLink (s : State) (p : Pos) (f : LinkRecord → LinkRecord) : (s.modLink p f).releaseUnit = s.releaseUnit := rfl
@[simp] theorem controller_modLink (s : State) (p : Pos) (f : LinkRecord → LinkRecord) : (s.modLink p f).controller = s.controller := rfl
@[simp] theorem bays_modLink (s : State) (p : Pos) (f : LinkRecord → LinkRecord) : (s.modLink p f).bays = s.bays := rfl
@[simp] theorem replica_modLink (s : State) (p : Pos) (f : LinkRecord → LinkRecord) : (s.modLink p f).replica = s.replica := rfl
@[simp] theorem pool_modLink (s : State) (p : Pos) (f : LinkRecord → LinkRecord) : (s.modLink p f).pool = s.pool := rfl
@[simp] theorem zones_modLink (s : State) (p : Pos) (f : LinkRecord → LinkRecord) : (s.modLink p f).zones = s.zones := rfl
@[simp] theorem check_modLink (s : State) (p : Pos) (f : LinkRecord → LinkRecord) : (s.modLink p f).check = s.check := rfl
@[simp] theorem trip_modLink (s : State) (p : Pos) (f : LinkRecord → LinkRecord) : (s.modLink p f).trip = s.trip := rfl
@[simp] theorem settings_modLink (s : State) (p : Pos) (f : LinkRecord → LinkRecord) : (s.modLink p f).settings = s.settings := rfl
@[simp] theorem port_modLink (s : State) (p : Pos) (f : LinkRecord → LinkRecord) : (s.modLink p f).port = s.port := rfl
@[simp] theorem lastReply_modLink (s : State) (p : Pos) (f : LinkRecord → LinkRecord) : (s.modLink p f).lastReply = s.lastReply := rfl
@[simp] theorem bay_modLink (s : State) (p : Pos) (f : LinkRecord → LinkRecord) (q : Pos) : (s.modLink p f).bay q = s.bay q := rfl
@[simp] theorem linkPool_modLink (s : State) (p : Pos) (f : LinkRecord → LinkRecord) (q : Pos) : (s.modLink p f).linkPool q = s.linkPool q := rfl
@[simp] theorem tripState_modLink (s : State) (p : Pos) (f : LinkRecord → LinkRecord) (q : Pos) : (s.modLink p f).tripState q = s.tripState q := rfl
@[simp] theorem active_modLink (s : State) (p : Pos) (f : LinkRecord → LinkRecord) : (s.modLink p f).active = s.active := rfl
@[simp] theorem depth_modLink (s : State) (p : Pos) (f : LinkRecord → LinkRecord) : (s.modLink p f).depth = s.depth := rfl
@[simp] theorem next_modLink (s : State) (p : Pos) (f : LinkRecord → LinkRecord) : (s.modLink p f).next = s.next := rfl

/-! ### modPool -/

@[simp] theorem pending_modPool (s : State) (p : Pos) (f : LinkPool → LinkPool) : (s.modPool p f).pending = s.pending := rfl
@[simp] theorem pins_modPool (s : State) (p : Pos) (f : LinkPool → LinkPool) : (s.modPool p f).pins = s.pins := rfl
@[simp] theorem clock_modPool (s : State) (p : Pos) (f : LinkPool → LinkPool) : (s.modPool p f).clock = s.clock := rfl
@[simp] theorem releaseUnit_modPool (s : State) (p : Pos) (f : LinkPool → LinkPool) : (s.modPool p f).releaseUnit = s.releaseUnit := rfl
@[simp] theorem controller_modPool (s : State) (p : Pos) (f : LinkPool → LinkPool) : (s.modPool p f).controller = s.controller := rfl
@[simp] theorem bays_modPool (s : State) (p : Pos) (f : LinkPool → LinkPool) : (s.modPool p f).bays = s.bays := rfl
@[simp] theorem replica_modPool (s : State) (p : Pos) (f : LinkPool → LinkPool) : (s.modPool p f).replica = s.replica := rfl
@[simp] theorem links_modPool (s : State) (p : Pos) (f : LinkPool → LinkPool) : (s.modPool p f).links = s.links := rfl
@[simp] theorem zones_modPool (s : State) (p : Pos) (f : LinkPool → LinkPool) : (s.modPool p f).zones = s.zones := rfl
@[simp] theorem check_modPool (s : State) (p : Pos) (f : LinkPool → LinkPool) : (s.modPool p f).check = s.check := rfl
@[simp] theorem trip_modPool (s : State) (p : Pos) (f : LinkPool → LinkPool) : (s.modPool p f).trip = s.trip := rfl
@[simp] theorem settings_modPool (s : State) (p : Pos) (f : LinkPool → LinkPool) : (s.modPool p f).settings = s.settings := rfl
@[simp] theorem port_modPool (s : State) (p : Pos) (f : LinkPool → LinkPool) : (s.modPool p f).port = s.port := rfl
@[simp] theorem lastReply_modPool (s : State) (p : Pos) (f : LinkPool → LinkPool) : (s.modPool p f).lastReply = s.lastReply := rfl
@[simp] theorem bay_modPool (s : State) (p : Pos) (f : LinkPool → LinkPool) (q : Pos) : (s.modPool p f).bay q = s.bay q := rfl
@[simp] theorem link_modPool (s : State) (p : Pos) (f : LinkPool → LinkPool) (q : Pos) : (s.modPool p f).link q = s.link q := rfl
@[simp] theorem tripState_modPool (s : State) (p : Pos) (f : LinkPool → LinkPool) (q : Pos) : (s.modPool p f).tripState q = s.tripState q := rfl
@[simp] theorem active_modPool (s : State) (p : Pos) (f : LinkPool → LinkPool) : (s.modPool p f).active = s.active := rfl
@[simp] theorem depth_modPool (s : State) (p : Pos) (f : LinkPool → LinkPool) : (s.modPool p f).depth = s.depth := rfl
@[simp] theorem next_modPool (s : State) (p : Pos) (f : LinkPool → LinkPool) : (s.modPool p f).next = s.next := rfl

/-! ### modTrip -/

@[simp] theorem pending_modTrip (s : State) (p : Pos) (f : TripState → TripState) : (s.modTrip p f).pending = s.pending := rfl
@[simp] theorem pins_modTrip (s : State) (p : Pos) (f : TripState → TripState) : (s.modTrip p f).pins = s.pins := rfl
@[simp] theorem clock_modTrip (s : State) (p : Pos) (f : TripState → TripState) : (s.modTrip p f).clock = s.clock := rfl
@[simp] theorem releaseUnit_modTrip (s : State) (p : Pos) (f : TripState → TripState) : (s.modTrip p f).releaseUnit = s.releaseUnit := rfl
@[simp] theorem controller_modTrip (s : State) (p : Pos) (f : TripState → TripState) : (s.modTrip p f).controller = s.controller := rfl
@[simp] theorem bays_modTrip (s : State) (p : Pos) (f : TripState → TripState) : (s.modTrip p f).bays = s.bays := rfl
@[simp] theorem replica_modTrip (s : State) (p : Pos) (f : TripState → TripState) : (s.modTrip p f).replica = s.replica := rfl
@[simp] theorem links_modTrip (s : State) (p : Pos) (f : TripState → TripState) : (s.modTrip p f).links = s.links := rfl
@[simp] theorem pool_modTrip (s : State) (p : Pos) (f : TripState → TripState) : (s.modTrip p f).pool = s.pool := rfl
@[simp] theorem zones_modTrip (s : State) (p : Pos) (f : TripState → TripState) : (s.modTrip p f).zones = s.zones := rfl
@[simp] theorem check_modTrip (s : State) (p : Pos) (f : TripState → TripState) : (s.modTrip p f).check = s.check := rfl
@[simp] theorem settings_modTrip (s : State) (p : Pos) (f : TripState → TripState) : (s.modTrip p f).settings = s.settings := rfl
@[simp] theorem port_modTrip (s : State) (p : Pos) (f : TripState → TripState) : (s.modTrip p f).port = s.port := rfl
@[simp] theorem lastReply_modTrip (s : State) (p : Pos) (f : TripState → TripState) : (s.modTrip p f).lastReply = s.lastReply := rfl
@[simp] theorem bay_modTrip (s : State) (p : Pos) (f : TripState → TripState) (q : Pos) : (s.modTrip p f).bay q = s.bay q := rfl
@[simp] theorem link_modTrip (s : State) (p : Pos) (f : TripState → TripState) (q : Pos) : (s.modTrip p f).link q = s.link q := rfl
@[simp] theorem linkPool_modTrip (s : State) (p : Pos) (f : TripState → TripState) (q : Pos) : (s.modTrip p f).linkPool q = s.linkPool q := rfl
@[simp] theorem active_modTrip (s : State) (p : Pos) (f : TripState → TripState) : (s.modTrip p f).active = s.active := rfl
@[simp] theorem depth_modTrip (s : State) (p : Pos) (f : TripState → TripState) : (s.modTrip p f).depth = s.depth := rfl
@[simp] theorem next_modTrip (s : State) (p : Pos) (f : TripState → TripState) : (s.modTrip p f).next = s.next := rfl

/-! ### post -/

@[simp] theorem pending_post (s : State) (r : Report) : (s.post r).pending = s.pending := rfl
@[simp] theorem pins_post (s : State) (r : Report) : (s.post r).pins = s.pins := rfl
@[simp] theorem clock_post (s : State) (r : Report) : (s.post r).clock = s.clock := rfl
@[simp] theorem releaseUnit_post (s : State) (r : Report) : (s.post r).releaseUnit = s.releaseUnit := rfl
@[simp] theorem controller_post (s : State) (r : Report) : (s.post r).controller = s.controller := rfl
@[simp] theorem bays_post (s : State) (r : Report) : (s.post r).bays = s.bays := rfl
@[simp] theorem replica_post (s : State) (r : Report) : (s.post r).replica = s.replica := rfl
@[simp] theorem links_post (s : State) (r : Report) : (s.post r).links = s.links := rfl
@[simp] theorem pool_post (s : State) (r : Report) : (s.post r).pool = s.pool := rfl
@[simp] theorem zones_post (s : State) (r : Report) : (s.post r).zones = s.zones := rfl
@[simp] theorem check_post (s : State) (r : Report) : (s.post r).check = s.check := rfl
@[simp] theorem trip_post (s : State) (r : Report) : (s.post r).trip = s.trip := rfl
@[simp] theorem settings_post (s : State) (r : Report) : (s.post r).settings = s.settings := rfl
@[simp] theorem lastReply_post (s : State) (r : Report) : (s.post r).lastReply = s.lastReply := rfl
@[simp] theorem bay_post (s : State) (r : Report) (q : Pos) : (s.post r).bay q = s.bay q := rfl
@[simp] theorem link_post (s : State) (r : Report) (q : Pos) : (s.post r).link q = s.link q := rfl
@[simp] theorem linkPool_post (s : State) (r : Report) (q : Pos) : (s.post r).linkPool q = s.linkPool q := rfl
@[simp] theorem tripState_post (s : State) (r : Report) (q : Pos) : (s.post r).tripState q = s.tripState q := rfl
@[simp] theorem active_post (s : State) (r : Report) : (s.post r).active = s.active := rfl
@[simp] theorem depth_post (s : State) (r : Report) : (s.post r).depth = s.depth := rfl
@[simp] theorem next_post (s : State) (r : Report) : (s.post r).next = s.next := rfl

/-! ### putZone -/

@[simp] theorem pending_putZone (s : State) (z : ZoneState) : (s.putZone z).pending = s.pending := rfl
@[simp] theorem pins_putZone (s : State) (z : ZoneState) : (s.putZone z).pins = s.pins := rfl
@[simp] theorem clock_putZone (s : State) (z : ZoneState) : (s.putZone z).clock = s.clock := rfl
@[simp] theorem releaseUnit_putZone (s : State) (z : ZoneState) : (s.putZone z).releaseUnit = s.releaseUnit := rfl
@[simp] theorem controller_putZone (s : State) (z : ZoneState) : (s.putZone z).controller = s.controller := rfl
@[simp] theorem bays_putZone (s : State) (z : ZoneState) : (s.putZone z).bays = s.bays := rfl
@[simp] theorem replica_putZone (s : State) (z : ZoneState) : (s.putZone z).replica = s.replica := rfl
@[simp] theorem links_putZone (s : State) (z : ZoneState) : (s.putZone z).links = s.links := rfl
@[simp] theorem pool_putZone (s : State) (z : ZoneState) : (s.putZone z).pool = s.pool := rfl
@[simp] theorem check_putZone (s : State) (z : ZoneState) : (s.putZone z).check = s.check := rfl
@[simp] theorem trip_putZone (s : State) (z : ZoneState) : (s.putZone z).trip = s.trip := rfl
@[simp] theorem settings_putZone (s : State) (z : ZoneState) : (s.putZone z).settings = s.settings := rfl
@[simp] theorem port_putZone (s : State) (z : ZoneState) : (s.putZone z).port = s.port := rfl
@[simp] theorem lastReply_putZone (s : State) (z : ZoneState) : (s.putZone z).lastReply = s.lastReply := rfl
@[simp] theorem bay_putZone (s : State) (z : ZoneState) (q : Pos) : (s.putZone z).bay q = s.bay q := rfl
@[simp] theorem link_putZone (s : State) (z : ZoneState) (q : Pos) : (s.putZone z).link q = s.link q := rfl
@[simp] theorem linkPool_putZone (s : State) (z : ZoneState) (q : Pos) : (s.putZone z).linkPool q = s.linkPool q := rfl
@[simp] theorem tripState_putZone (s : State) (z : ZoneState) (q : Pos) : (s.putZone z).tripState q = s.tripState q := rfl
@[simp] theorem active_putZone (s : State) (z : ZoneState) : (s.putZone z).active = s.active := rfl
@[simp] theorem depth_putZone (s : State) (z : ZoneState) : (s.putZone z).depth = s.depth := rfl
@[simp] theorem next_putZone (s : State) (z : ZoneState) : (s.putZone z).next = s.next := rfl

/-! ### postAll -/

/-- Posting reports changes the port alone. -/
theorem postAll_eq (s : State) (rs : List Report) : s.postAll rs = { s with port := (s.postAll rs).port } := by
  induction rs generalizing s with
  | nil => rfl
  | cons r rs ih =>
    have := ih (s.post r)
    simp only [State.postAll, List.foldl_cons] at this ⊢
    rw [this]; rfl

@[simp] theorem postAll_nil (s : State) : s.postAll [] = s := rfl
theorem postAll_cons (s : State) (r : Report) (rs : List Report) : s.postAll (r :: rs) = (s.post r).postAll rs := rfl

@[simp] theorem pending_postAll (s : State) (rs : List Report) : (s.postAll rs).pending = s.pending := by rw [postAll_eq]
@[simp] theorem pins_postAll (s : State) (rs : List Report) : (s.postAll rs).pins = s.pins := by rw [postAll_eq]
@[simp] theorem clock_postAll (s : State) (rs : List Report) : (s.postAll rs).clock = s.clock := by rw [postAll_eq]
@[simp] theorem releaseUnit_postAll (s : State) (rs : List Report) : (s.postAll rs).releaseUnit = s.releaseUnit := by rw [postAll_eq]
@[simp] theorem controller_postAll (s : State) (rs : List Report) : (s.postAll rs).controller = s.controller := by rw [postAll_eq]
@[simp] theorem bays_postAll (s : State) (rs : List Report) : (s.postAll rs).bays = s.bays := by rw [postAll_eq]
@[simp] theorem replica_postAll (s : State) (rs : List Report) : (s.postAll rs).replica = s.replica := by rw [postAll_eq]
@[simp] theorem links_postAll (s : State) (rs : List Report) : (s.postAll rs).links = s.links := by rw [postAll_eq]
@[simp] theorem pool_postAll (s : State) (rs : List Report) : (s.postAll rs).pool = s.pool := by rw [postAll_eq]
@[simp] theorem zones_postAll (s : State) (rs : List Report) : (s.postAll rs).zones = s.zones := by rw [postAll_eq]
@[simp] theorem check_postAll (s : State) (rs : List Report) : (s.postAll rs).check = s.check := by rw [postAll_eq]
@[simp] theorem trip_postAll (s : State) (rs : List Report) : (s.postAll rs).trip = s.trip := by rw [postAll_eq]
@[simp] theorem settings_postAll (s : State) (rs : List Report) : (s.postAll rs).settings = s.settings := by rw [postAll_eq]
@[simp] theorem lastReply_postAll (s : State) (rs : List Report) : (s.postAll rs).lastReply = s.lastReply := by rw [postAll_eq]
@[simp] theorem bay_postAll (s : State) (rs : List Report) (q : Pos) : (s.postAll rs).bay q = s.bay q := by rw [postAll_eq]; rfl
@[simp] theorem link_postAll (s : State) (rs : List Report) (q : Pos) : (s.postAll rs).link q = s.link q := by rw [postAll_eq]; rfl
@[simp] theorem linkPool_postAll (s : State) (rs : List Report) (q : Pos) : (s.postAll rs).linkPool q = s.linkPool q := by rw [postAll_eq]; rfl
@[simp] theorem tripState_postAll (s : State) (rs : List Report) (q : Pos) : (s.postAll rs).tripState q = s.tripState q := by rw [postAll_eq]; rfl
@[simp] theorem active_postAll (s : State) (rs : List Report) : (s.postAll rs).active = s.active := by rw [postAll_eq]; rfl
@[simp] theorem depth_postAll (s : State) (rs : List Report) : (s.postAll rs).depth = s.depth := by rw [postAll_eq]; rfl
@[simp] theorem next_postAll (s : State) (rs : List Report) : (s.postAll rs).next = s.next := by rw [postAll_eq]; rfl

/-! ### Answers -/

@[simp] theorem answer_state (s : State) (c : ResultCode) (f : ReplyFields) : (s.answer c f).state = s := rfl
@[simp] theorem answer_reply (s : State) (c : ResultCode) (f : ReplyFields) : (s.answer c f).reply = { code := c, fields := f } := rfl

/-- A request while the part is powered: its owner's work, with the reply handed to the port. -/
theorem request_on {owner : State → Answer} {s : State} (h : s.pins.inReset = false) :
    request owner s = .next { (owner s).state with lastReply := some (owner s).reply } := by
  simp [request, h]

/-- An event while the part is powered: its work. -/
theorem event_on {work : State → State} {s : State} (h : s.pins.inReset = false) : event work s = .next (work s) := by
  simp [event, h]

theorem request_off {owner : State → Answer} {s : State} (h : s.pins.inReset = true) : request owner s = .next s := by
  simp [request, h]

theorem event_off {work : State → State} {s : State} (h : s.pins.inReset = true) : event work s = .next s := by
  simp [event, h]

/-! ### Work done for every one of a list -/

/-- What each step keeps, all of them keep. -/
theorem foldl_keeps {σ α : Type} {P : σ → Prop} {f : σ → α → σ} (step : ∀ s a, P s → P (f s a)) :
    ∀ (xs : List α) (s : σ), P s → P (xs.foldl f s)
  | [], _, h => h
  | a :: xs, s, h => foldl_keeps step xs (f s a) (step s a h)

/-- A view that no step changes, all of them leave. -/
theorem foldl_same {σ α β : Type} {v : σ → β} {f : σ → α → σ} (step : ∀ s a, v (f s a) = v s) :
    ∀ (xs : List α) (s : σ), v (xs.foldl f s) = v s
  | [], _ => rfl
  | a :: xs, s => (foldl_same step xs (f s a)).trans (step s a)

end Sys2Proof.Machine
end

