-- ==== Sys2Proof/Laws/Pool.lean ====
section
/-! SUPPORT. The Frame Pool's canonical form is kept by every operation on a set of frames. -/

namespace Sys2Proof.Machine

/-- A frame stands before every frame of a canonical list. -/
def headBelow (f : StoredFrame) : List StoredFrame → Bool
  | [] => true
  | g :: _ => f.sequence.toNat < g.sequence.toNat

theorem framesSorted_cons (f : StoredFrame) (fs : List StoredFrame) :
    framesSorted (f :: fs) = (headBelow f fs && framesSorted fs) := by
  cases fs <;> simp [framesSorted, headBelow]

theorem headBelow_insert {f g : StoredFrame} {fs : List StoredFrame} (h : headBelow f fs = true)
    (hg : f.sequence.toNat < g.sequence.toNat) : headBelow f (insertFrame g fs) = true := by
  cases fs with
  | nil => simpa [insertFrame, headBelow] using hg
  | cons x xs =>
    simp only [insertFrame]
    split
    · simpa [headBelow] using hg
    · split <;> simpa [headBelow] using h

/-- A store keeps the canonical form. -/
theorem framesSorted_insert (g : StoredFrame) (fs : List StoredFrame) (h : framesSorted fs = true) :
    framesSorted (insertFrame g fs) = true := by
  induction fs with
  | nil => rfl
  | cons x xs ih =>
    rw [framesSorted_cons, Bool.and_eq_true] at h
    simp only [insertFrame]
    split
    · rename_i hlt
      rw [framesSorted_cons, framesSorted_cons, h.1, h.2]
      simp [headBelow, hlt]
    · split
      · rw [framesSorted_cons]; simp [h.1, h.2]
      · rename_i hlt hne
        have hx : x.sequence.toNat < g.sequence.toNat := by
          have : g.sequence.toNat ≠ x.sequence.toNat := fun e => hne (BitVec.eq_of_toNat_eq e)
          omega
        rw [framesSorted_cons, headBelow_insert h.1 hx, ih h.2]; rfl

/-- In a canonical list the head stands before every later frame. -/
theorem sorted_below {f : StoredFrame} {fs : List StoredFrame} (h : framesSorted (f :: fs) = true) :
    ∀ g ∈ fs, f.sequence.toNat < g.sequence.toNat := by
  induction fs generalizing f with
  | nil => simp
  | cons x xs ih =>
    rw [framesSorted_cons, Bool.and_eq_true] at h
    have hx : f.sequence.toNat < x.sequence.toNat := by simpa [headBelow] using h.1
    intro g hg
    rcases List.mem_cons.1 hg with rfl | hg
    · exact hx
    · exact Nat.lt_trans hx (ih h.2 g hg)

/-- Taking frames out keeps the canonical form. -/
theorem framesSorted_filter (p : StoredFrame → Bool) (fs : List StoredFrame) (h : framesSorted fs = true) :
    framesSorted (fs.filter p) = true := by
  induction fs with
  | nil => rfl
  | cons x xs ih =>
    have h2 : framesSorted xs = true := by rw [framesSorted_cons, Bool.and_eq_true] at h; exact h.2
    by_cases hp : p x = true
    · rw [List.filter_cons_of_pos hp, framesSorted_cons, ih h2, Bool.and_true]
      cases hf : xs.filter p with
      | nil => rfl
      | cons y ys =>
        have : y ∈ xs := List.mem_of_mem_filter (p := p) (by rw [hf]; exact List.mem_cons_self)
        simpa [headBelow] using sorted_below h y this
    · rw [List.filter_cons_of_neg hp]; exact ih h2

theorem framesSorted_free (q : Seq) (fs : List StoredFrame) (h : framesSorted fs = true) :
    framesSorted (freeFrame q fs) = true := framesSorted_filter _ fs h

/-- A freed sequence is held no more. -/
theorem findFrame_free (q : Seq) (fs : List StoredFrame) : findFrame q (freeFrame q fs) = none := by
  simp [findFrame, freeFrame, List.find?_eq_none]

/-- A frame just stored is found under its sequence, where none was held. -/
theorem findFrame_insert (f : StoredFrame) (fs : List StoredFrame) (h : findFrame f.sequence fs = none) :
    findFrame f.sequence (insertFrame f fs) = some f := by
  induction fs with
  | nil => simp [findFrame, insertFrame]
  | cons x xs ih =>
    have hx : ¬ x.sequence = f.sequence := by
      intro e; simp [findFrame, e] at h
    have h2 : findFrame f.sequence xs = none := by
      simpa [findFrame, List.find?_cons, hx] using h
    simp only [insertFrame]
    split
    · simp [findFrame]
    · split
      · rename_i e; exact absurd e.symm hx
      · have := ih h2
        simpa [findFrame, List.find?_cons, hx] using this

end Sys2Proof.Machine
end

