-- ==== Sys2Proof/Laws/Keeps.lean ====
section
/-! SUPPORT. What every shared operation can do: it leaves the queue, the pins, the clock and the Release Unit alone, and keeps what always holds of the state. -/

namespace Sys2Proof.Machine

/-- The parts of the state that no block's work touches but the clock's and the Release Unit's own. -/
def State.fixed (s : State) : List Instr × Pins × Clock × ReleaseUnit := (s.pending, s.pins, s.clock, s.releaseUnit)

/-- The state t comes from s by work that leaves the fixed parts alone and keeps what always holds. -/
structure Keeps (s t : State) : Prop where
  fixed : t.fixed = s.fixed
  sound : s.sound → t.sound

theorem Keeps.refl (s : State) : Keeps s s := ⟨rfl, id⟩

theorem Keeps.trans {s t u : State} (h : Keeps s t) (k : Keeps t u) : Keeps s u :=
  ⟨k.fixed.trans h.fixed, fun x => k.sound (h.sound x)⟩

/-- The later work first. -/
theorem Keeps.after {s t u : State} (k : Keeps t u) (h : Keeps s t) : Keeps s u := h.trans k

/-- Work outside the port, the settings, the trip unit and the pool, then more work. -/
theorem Keeps.onward {s t u : State} (k : Keeps t u) (f : t.fixed = s.fixed) (p : t.port = s.port) (g : t.settings = s.settings)
    (u' : t.trip = s.trip) (q : t.pool = s.pool) : Keeps s u :=
  .after k ⟨f, fun h => by unfold State.sound at *; rw [p, g, u', q]; exact h⟩

theorem Keeps.clock {s t : State} (h : Keeps s t) : t.clock = s.clock := congrArg (fun x => x.2.2.1) h.fixed
theorem Keeps.pins {s t : State} (h : Keeps s t) : t.pins = s.pins := congrArg (fun x => x.2.1) h.fixed
theorem Keeps.pending {s t : State} (h : Keeps s t) : t.pending = s.pending := congrArg (fun x => x.1) h.fixed
theorem Keeps.releaseUnit {s t : State} (h : Keeps s t) : t.releaseUnit = s.releaseUnit := congrArg (fun x => x.2.2.2) h.fixed

/-- Work outside the port, the settings, the trip unit and the pool. -/
theorem Keeps.same {s t : State} (f : t.fixed = s.fixed) (p : t.port = s.port) (g : t.settings = s.settings)
    (u : t.trip = s.trip) (q : t.pool = s.pool) : Keeps s t :=
  ⟨f, fun h => by unfold State.sound at *; rw [p, g, u, q]; exact h⟩

theorem Keeps.ite {s t u : State} {c : Prop} [Decidable c] (h : Keeps s t) (k : Keeps s u) : Keeps s (if c then t else u) := by
  split <;> assumption

theorem Keeps.foldl {α : Type} {f : State → α → State} (step : ∀ s a, Keeps s (f s a)) (s : State) (xs : List α) :
    Keeps s (xs.foldl f s) :=
  foldl_keeps (P := Keeps s) (fun t a h => h.trans (step t a)) xs s (Keeps.refl s)

/-! ### Notices -/

theorem portSound_join (q : Port) (n : Notice) (h : q.sound) : (q.join n).sound := by
  unfold Port.join
  split
  · rename_i hl
    refine ⟨?_, fun _ => by simp⟩
    simp only [List.length_append, List.length_cons, List.length_nil]; omega
  · exact h

theorem keeps_post (s : State) (r : Report) : Keeps s (s.post r) :=
  ⟨rfl, fun h => ⟨portSound_join _ _ h.1, h.2⟩⟩

theorem keeps_postAll (s : State) (rs : List Report) : Keeps s (s.postAll rs) := Keeps.foldl keeps_post s rs

/-! ### One cell -/

theorem keeps_modBay (s : State) (p : Pos) (f : BayRecord → BayRecord) : Keeps s (s.modBay p f) := .same rfl rfl rfl rfl rfl
theorem keeps_modLink (s : State) (p : Pos) (f : LinkRecord → LinkRecord) : Keeps s (s.modLink p f) := .same rfl rfl rfl rfl rfl
theorem keeps_putZone (s : State) (z : ZoneState) : Keeps s (s.putZone z) := .same rfl rfl rfl rfl rfl

theorem keeps_modPool (s : State) (p : Pos) {f : LinkPool → LinkPool}
    (hf : framesSorted (s.linkPool p).frames = true → framesSorted (f (s.linkPool p)).frames = true) : Keeps s (s.modPool p f) :=
  ⟨rfl, fun h => ⟨h.1, h.2.1, h.2.2.1, fun q => by
    show framesSorted ((s.pool.modify p f).get q).frames = true
    rw [Table.get_modify]; split
    · rename_i e; subst e; exact hf (h.2.2.2 q)
    · exact h.2.2.2 q⟩⟩

/-- A trip state changed where the change keeps what always holds of it. -/
theorem keeps_modTrip (s : State) (p : Pos) {f : TripState → TripState}
    (hf : (s.tripState p).sound → (f (s.tripState p)).sound) : Keeps s (s.modTrip p f) :=
  ⟨rfl, fun h => ⟨h.1, h.2.1, ⟨fun q => by
    show ((s.trip.bays.modify p f).get q).sound
    rw [Table.get_modify]; split
    · rename_i e; subst e; exact hf (h.2.2.1.1 q)
    · exact h.2.2.1.1 q, h.2.2.1.2⟩, h.2.2.2⟩⟩

theorem State.sound.trip {s : State} (h : s.sound) (p : Pos) : (s.tripState p).sound := h.2.2.1.1 p
theorem State.sound.pool {s : State} (h : s.sound) (p : Pos) : framesSorted (s.linkPool p).frames = true := h.2.2.2 p

/-! ### Flags.lean, FramePool.lean -/

theorem keeps_countError (s : State) (p : Pos) (k : ErrorKind) : Keeps s (s.countError p k) := by
  unfold State.countError
  split
  · exact keeps_modLink ..
  · exact (keeps_modLink ..).trans (keeps_postAll ..)

theorem keeps_endLinkOp (s : State) (p : Pos) (r : LinkResult) : Keeps s (s.endLinkOp p r) :=
  (keeps_modLink ..).trans (keeps_post ..)

theorem keeps_apply (s : State) (p : Pos) (n : Seq) (a : Nat) : Keeps s (s.modPool p fun q => q.applied n a) :=
  keeps_modPool _ _ id

theorem keeps_abortLinkOp (s : State) (p : Pos) : Keeps s (s.abortLinkOp p) := by
  unfold State.abortLinkOp
  split
  · split
    · exact (keeps_apply ..).trans (keeps_endLinkOp ..)
    · exact (keeps_modLink ..).trans (keeps_endLinkOp ..)
  · exact .refl _

theorem keeps_drainCheck (s : State) (p : Pos) : Keeps s (s.drainCheck p) := by
  unfold State.drainCheck
  exact .ite ((keeps_apply ..).trans (keeps_endLinkOp ..)) (.refl _)

/-- The pool changed at every link, each keeping its canonical form. -/
theorem keeps_mapPool (s : State) {f : LinkPool → LinkPool}
    (hf : ∀ q, framesSorted q.frames = true → framesSorted (f q).frames = true) : Keeps s { s with pool := s.pool.map f } :=
  ⟨rfl, fun h => ⟨h.1, h.2.1, h.2.2.1, fun p => by
    show framesSorted ((s.pool.map f).get p).frames = true
    rw [Table.get_map]; exact hf _ (h.2.2.2 p)⟩⟩

theorem keeps_advanceGrants (s : State) : Keeps s s.advanceGrants :=
  (keeps_mapPool s (f := fun q => if q.stalled then q else { q with grant := grantFor s.next q.span })
    (fun q h => by split <;> exact h)).trans (Keeps.foldl keeps_drainCheck _ _)

theorem keeps_freeSlots (s : State) (q : Seq) : Keeps s (s.freeSlots q) :=
  keeps_mapPool s fun k h => framesSorted_free q k.frames h

theorem keeps_discardFrames (s : State) (p : Pos) : Keeps s (s.discardFrames p) := keeps_modPool _ _ fun _ => rfl

/-! ### ZoneReplica.lean -/

theorem keeps_reportZone (s : State) (z : EffZone) : Keeps s (s.reportZone z) := by
  unfold State.reportZone
  exact .ite (.refl _) (.onward (keeps_post ..) rfl rfl rfl rfl rfl)

theorem keeps_reportCheck (s : State) (c : CheckZone) : Keeps s (s.reportCheck c) := by
  unfold State.reportCheck
  exact .ite (.refl _) (.onward (keeps_post ..) rfl rfl rfl rfl rfl)

theorem keeps_settlePicture (s : State) (q : Seq) : Keeps s (s.settlePicture q) :=
  .after (keeps_reportCheck ..) (.after (Keeps.foldl keeps_reportZone _ _) (.same rfl rfl rfl rfl rfl))

theorem keeps_requestCts (s : State) (n : BusZone) (ps : List (Phase × Nat)) : Keeps s (s.requestCts n ps) := by
  unfold State.requestCts
  split
  · exact .refl _
  · exact .after (keeps_reportZone ..) (.onward (keeps_post ..) rfl rfl rfl rfl rfl)

theorem keeps_requestCheckCts (s : State) (ps : List (Phase × Nat)) : Keeps s (s.requestCheckCts ps) := by
  unfold State.requestCheckCts
  split
  · exact .refl _
  · exact .after (keeps_reportCheck ..) (.onward (keeps_post ..) rfl rfl rfl rfl rfl)

/-! ### Evaluator.lean, ZoneSupervision.lean -/

theorem keeps_evaluate (s : State) (pic : Picture) (h : Table BayHand) : Keeps s (s.evaluate pic h) := .same rfl rfl rfl rfl rfl
theorem keeps_dropEvaluation (s : State) : Keeps s s.dropEvaluation := .same rfl rfl rfl rfl rfl
theorem keeps_emptyWindows (s : State) : Keeps s s.emptyWindows := .same rfl rfl rfl rfl rfl

theorem keeps_superviseCts (s : State) (g : Settings) (st : ZoneState) (b : PerPhase Bool) (i : PerPhase Nat) :
    Keeps s (s.superviseCts g st b i) :=
  (keeps_putZone ..).trans (.ite (.refl _) (keeps_requestCts ..))

theorem keeps_superviseZone (g : Settings) (s : State) (h : ZoneHand) : Keeps s (s.superviseZone g h) := by
  unfold State.superviseZone
  split
  · exact .refl _
  · exact keeps_superviseCts ..

theorem keeps_superviseCheckCts (s : State) (g : Settings) (c : CheckState) (b : PerPhase Bool) (i : PerPhase Nat) :
    Keeps s (s.superviseCheckCts g c b i) :=
  Keeps.trans (t := { s with check := some { c with cts := c.cts.step g b } }) (.same rfl rfl rfl rfl rfl)
    (.ite (.refl _) (keeps_requestCheckCts ..))

theorem keeps_superviseCheck (g : Settings) (h : Option CheckHand) (s : State) : Keeps s (s.superviseCheck g h) := by
  unfold State.superviseCheck
  split
  · exact keeps_superviseCheckCts ..
  · exact .refl _

theorem keeps_supervise (s : State) (g : Settings) (hs : List ZoneHand) (c : Option CheckHand) : Keeps s (s.supervise g hs c) :=
  (Keeps.foldl (keeps_superviseZone g) s hs).trans (keeps_superviseCheck ..)

theorem keeps_clearCtsOf (s : State) (x : BusZone) : Keeps s (s.clearCtsOf x) := by
  unfold State.clearCtsOf
  split
  · exact .refl _
  · exact .same rfl rfl rfl rfl rfl

theorem keeps_stepClassifier (s : State) (z : BusZone) (w : ClassifierState → Bool) (f : ClassifierState → ClassifierState) :
    Keeps s (s.stepClassifier z w f) := .same rfl rfl rfl rfl rfl

theorem keeps_ctSupervisionZone (s : State) (z : BusZone) (i : PerPhase Nat) : Keeps s (s.ctSupervisionZone z i) := by
  unfold State.ctSupervisionZone
  split
  · exact .refl _
  · exact .ite (keeps_superviseCts ..) (.refl _)

theorem keeps_ctSupervisionCheck (s : State) (i : PerPhase Nat) : Keeps s (s.ctSupervisionCheck i) := by
  unfold State.ctSupervisionCheck
  split
  · exact .refl _
  · exact .ite (keeps_superviseCheckCts ..) (.refl _)

end Sys2Proof.Machine
end

