-- ==== Sys2Proof/Laws/KeepsTrip.lean ====
section
/-! SUPPORT. The Trip Unit's operations keep what always holds of the state; a set latch holds every order out. -/

namespace Sys2Proof.Machine

/-! ### Trip states -/

theorem sound_land {g : Settings} {t : TripState} (h : t.sound) : (t.land g).sound := by
  refine ⟨h.1, fun hl => ?_, fun hr => (hr rfl).elim⟩
  have := h.2.1 hl
  simp [TripState.land, this.2]

theorem sound_cancelled {g : Settings} {w : OrderKind → Bool} {t : TripState} (h : t.sound) : (t.cancelled g w).sound := by
  obtain ⟨h1, h2, h3⟩ := h
  unfold TripState.cancelled
  simp only
  split
  · refine ⟨h1, fun hl => ?_, fun hr => (hr rfl).elim⟩
    have := h2 hl
    simp [this.2]
  · refine ⟨h1, fun hl => ?_, fun hr => ?_⟩
    · have := h2 hl
      simp [this.1, this.2]
    · have : t.reserved ≠ none := by
        intro e; simp [e] at hr
      exact h3 this

/-- A cancellation of every order leaves none. -/
theorem cancelled_all (g : Settings) (t : TripState) (h : t.reserved ≠ none → t.inFlight ≠ none) :
    (t.cancelled g fun _ => true).inFlight = none ∧ (t.cancelled g fun _ => true).reserved = none := by
  unfold TripState.cancelled
  cases hf : t.inFlight with
  | some f => simp
  | none =>
    have hr : t.reserved = none := by
      cases hr : t.reserved with
      | none => rfl
      | some r => exact absurd hf (h (by simp [hr]))
    simp [hr]

@[simp] theorem cancelled_trip (g : Settings) (w : OrderKind → Bool) (t : TripState) : (t.cancelled g w).trip = t.trip := by
  unfold TripState.cancelled; split <;> rfl
@[simp] theorem cancelled_transfer (g : Settings) (w : OrderKind → Bool) (t : TripState) :
    (t.cancelled g w).transfer = t.transfer := by
  unfold TripState.cancelled; split <;> rfl
@[simp] theorem cancelled_bf (g : Settings) (w : OrderKind → Bool) (t : TripState) : (t.cancelled g w).bf = t.bf := by
  unfold TripState.cancelled; split <;> rfl

/-- A latch set, with the bay's orders cancelled. -/
theorem sound_latchSet {g : Settings} {k : LatchKind} {q : Seq} {t : TripState} (h : t.sound) :
    ((t.withLatch k (Latch.setAt g q)).cancelled g fun _ => true).sound := by
  have hr : (t.withLatch k (Latch.setAt g q)).reserved ≠ none → (t.withLatch k (Latch.setAt g q)).inFlight ≠ none := by
    cases k <;> exact h.2.2
  have hc := cancelled_all g _ hr
  refine ⟨?_, fun _ => hc, fun e => absurd hc.2 e⟩
  intro hb
  rw [cancelled_bf] at hb
  rw [cancelled_trip]
  cases k
  · rfl
  · exact h.1 hb

/-- A change of the latches that leaves them set or clear as they were. -/
theorem sound_sameLatches {t u : TripState} (h : t.sound) (b : u.bf = t.bf) (x : u.trip.set = t.trip.set)
    (y : u.transfer.set = t.transfer.set) (f : u.inFlight = t.inFlight) (r : u.reserved = t.reserved) : u.sound := by
  unfold TripState.sound TripState.latched at *
  rw [b, x, y, f, r]; exact h

@[simp] theorem confirm_set (seen : Bool) (l : Latch) : (l.confirm seen).set = l.set := by
  unfold Latch.confirm; split <;> rfl
@[simp] theorem tick_set (l : Latch) : l.tick.set = l.set := by
  unfold Latch.tick; split <;> rfl

theorem sound_startTiming {g : Settings} {c : StartCause} {t : TripState} (h : t.sound) (hs : t.trip.set = true) :
    (t.startTiming g c).sound := by
  unfold TripState.startTiming
  split
  · exact ⟨fun _ => hs, h.2.1, h.2.2⟩
  · exact h

@[simp] theorem startTiming_trip (g : Settings) (c : StartCause) (t : TripState) : (t.startTiming g c).trip = t.trip := by
  unfold TripState.startTiming; split <;> rfl

theorem sound_bfIdle {t : TripState} (h : t.sound) : t.bfIdle.sound := ⟨fun e => absurd rfl e, h.2.1, h.2.2⟩

theorem sound_bfFails {t : TripState} (h : t.sound) (ht : t.timing = true) : t.bfFails.sound := by
  refine ⟨fun _ => h.1 ?_, h.2.1, h.2.2⟩
  intro e; simp [TripState.timing, e] at ht

theorem sound_forgive {t : TripState} (h : t.sound) : t.forgive.sound := by
  unfold TripState.forgive; split
  · exact sound_bfIdle h
  · exact h

/-- Both latches cleared on a bay that is not TIMING. -/
theorem sound_resetTrip {t : TripState} (h : t.sound) (ht : t.timing = false) : t.resetTrip.sound := by
  have hb : t.forgive.bf = .idle := by
    unfold TripState.forgive
    split
    · rfl
    · rename_i e
      unfold TripState.timing at ht
      cases hb : t.bf
      · rfl
      · rw [hb] at ht; cases ht
      · exact absurd hb e
  refine ⟨fun e => absurd hb e, fun hl => ?_, fun hr => ?_⟩
  · simp [TripState.latched, TripState.resetTrip, Latch.cleared] at hl
  · exact (sound_forgive h).2.2 hr

theorem sound_reset : TripState.reset.sound := by
  refine ⟨fun h => absurd rfl h, fun h => ?_, fun h => absurd rfl h⟩
  simp [TripState.latched, TripState.reset, Latch.reset] at h

theorem sound_restarted (t : TripState) : t.restarted.sound :=
  ⟨fun h => absurd rfl h, fun h => by simp [TripState.latched, TripState.restarted, TripState.reset, Latch.reset] at h,
    fun h => absurd rfl h⟩

theorem sound_give {g : Settings} {o : Order} {t : TripState} (h : t.sound) (hl : t.latched = false) : (t.give g o).sound := by
  unfold TripState.give
  cases hf : t.inFlight with
  | none =>
    refine ⟨h.1, fun e => ?_, fun _ => by simp⟩
    exact absurd (show t.latched = true from e) (by simp [hl])
  | some f =>
    refine ⟨h.1, fun e => ?_, fun _ => ?_⟩
    · exact absurd (show t.latched = true from e) (by simp [hl])
    · simp

/-! ### Two changes of one bay -/

theorem Table.modify_modify {α : Type} (t : Table α) (p : Pos) (f g : α → α) :
    (t.modify p f).modify p g = t.modify p fun a => g (f a) := by
  apply Table.ext_cells
  show (t.cells.set p.val (f (t.get p))).set p.val (g ((t.modify p f).get p)) = t.cells.set p.val (g (f (t.get p)))
  rw [List.set_set, Table.get_modify_same]

theorem modTrip_modTrip (s : State) (p : Pos) (f g : TripState → TripState) :
    (s.modTrip p f).modTrip p g = s.modTrip p fun t => g (f t) := by
  simp [State.modTrip, Table.modify_modify]

/-! ### Orders and latches -/

theorem keeps_cancelOrders (s : State) (p : Pos) (w : OrderKind → Bool) (c : CancelCause) : Keeps s (s.cancelOrders p w c) :=
  (keeps_modTrip s p fun h => sound_cancelled h).trans (keeps_postAll ..)

theorem keeps_completeOrder (s : State) (p : Pos) (q : Seq) (e : Nat) : Keeps s (s.completeOrder p q e) := by
  unfold State.completeOrder
  split
  · exact .refl _
  · exact .ite ((keeps_modTrip s p fun h => sound_land h).trans (keeps_post ..)) (.refl _)

theorem keeps_tickOrder (s : State) (p : Pos) : Keeps s (s.tickOrder p) := by
  unfold State.tickOrder
  split
  · exact .refl _
  · rename_i f hf
    refine .ite ((keeps_modTrip s p fun h => sound_land h).trans (keeps_post ..)) (keeps_modTrip s p fun h => ?_)
    refine ⟨h.1, fun e => ?_, fun _ => by simp⟩
    exact absurd (h.2.1 e).1 (by simp [hf])

/-- Setting a latch: one change of the bay's trip state, and ORDER_CANCELLED notices. -/
theorem setLatch_eq (s : State) (p : Pos) (k : LatchKind) (q : Seq) :
    ∃ rs, s.setLatch p k q =
      if ((s.tripState p).latch k).set then s
      else (s.modTrip p fun t => (t.withLatch k (Latch.setAt s.active q)).cancelled s.active fun _ => true).postAll rs := by
  unfold State.setLatch State.cancelOrders
  rw [modTrip_modTrip]
  exact ⟨_, rfl⟩

theorem keeps_setLatch (s : State) (p : Pos) (k : LatchKind) (q : Seq) : Keeps s (s.setLatch p k q) := by
  obtain ⟨rs, h⟩ := setLatch_eq s p k q
  rw [h]
  exact .ite (.refl _) ((keeps_modTrip s p fun h => sound_latchSet h).trans (keeps_postAll ..))

/-- The latch is set after it has been set. -/
theorem set_setLatch (s : State) (p : Pos) (k : LatchKind) (q : Seq) : (((s.setLatch p k q).tripState p).latch k).set = true := by
  obtain ⟨rs, h⟩ := setLatch_eq s p k q
  rw [h]
  split
  · assumption
  · cases k <;> simp [TripState.latch, TripState.withLatch, Latch.setAt]

/-- A set trip latch stays set while latches are set. -/
theorem tripSet_setLatch (s : State) (p : Pos) (k : LatchKind) (q : Seq) (r : Pos) (h : (s.tripState r).trip.set = true) :
    ((s.setLatch p k q).tripState r).trip.set = true := by
  obtain ⟨rs, e⟩ := setLatch_eq s p k q
  rw [e]
  split
  · exact h
  · rw [tripState_postAll]
    by_cases hr : r = p
    · subst hr
      rw [tripState_modTrip, cancelled_trip]
      cases k
      · rfl
      · exact h
    · rw [tripState_modTrip_other _ hr]; exact h

theorem keeps_setTrips (s : State) (ps : List Pos) (q : Seq) : Keeps s (s.setTrips ps q) :=
  Keeps.foldl (fun s p => keeps_setLatch s p .trip q) s ps

theorem tripSet_setTrips (ps : List Pos) (q : Seq) (s : State) (r : Pos) (h : (s.tripState r).trip.set = true) :
    ((s.setTrips ps q).tripState r).trip.set = true :=
  foldl_keeps (P := fun t => (t.tripState r).trip.set = true) (fun t p ht => tripSet_setLatch t p .trip q r ht) ps s h

/-- Every bay of the list holds its trip latch afterwards. -/
theorem set_setTrips (q : Seq) : ∀ (ps : List Pos) (s : State), ∀ p ∈ ps, ((s.setTrips ps q).tripState p).trip.set = true
  | [], _, _, hp => by simp at hp
  | x :: xs, s, p, hp => by
    rcases List.mem_cons.1 hp with rfl | hp
    · exact tripSet_setTrips xs q (s.setLatch p .trip q) p (set_setLatch s p .trip q)
    · exact set_setTrips q xs (s.setLatch x .trip q) p hp

theorem keeps_tickLatch (s : State) (p : Pos) (k : LatchKind) : Keeps s (s.tickLatch p k) :=
  (keeps_modTrip s p fun h => by
    cases k <;> exact sound_sameLatches h rfl (by simp [TripState.withLatch, TripState.latch])
      (by simp [TripState.withLatch, TripState.latch]) rfl rfl).trans (keeps_postAll ..)

theorem keeps_tickBay (s : State) (p : Pos) : Keeps s (s.tickBay p) :=
  ((keeps_tickLatch ..).trans (keeps_tickLatch ..)).trans (keeps_tickOrder ..)

theorem keeps_tickTrips (s : State) : Keeps s s.tickTrips := Keeps.foldl keeps_tickBay _ _

theorem keeps_acknowledge (q : Seq) (h : Table BayHand) (s : State) (p : Pos) : Keeps s (s.acknowledge q h p) := by
  unfold State.acknowledge
  refine .ite (Keeps.after (keeps_completeOrder ..) (keeps_modTrip s p fun h => ?_)) (.refl _)
  exact sound_sameLatches h rfl (by simp) (by simp) rfl rfl

theorem keeps_acknowledgeAll (s : State) (q : Seq) (h : Table BayHand) : Keeps s (s.acknowledgeAll q h) :=
  Keeps.foldl (keeps_acknowledge q h) _ _

theorem keeps_examineFlags (s : State) : Keeps s s.examineFlags := .same rfl rfl rfl rfl rfl

/-! ### Records (R148) -/

/-- A held record does not bear the id that is given. -/
theorem freshId_fresh {held : List Nat} {n : Nat} (h : held.length < 256) : freshId held n ∉ held := by
  unfold freshId
  cases hf : (((List.range 256).map fun k => (n + k) % 256).find? fun i => !held.contains i) with
  | some i =>
    have := List.find?_some hf
    simpa using this
  | none =>
    exfalso
    rw [List.find?_eq_none] at hf
    have hall : ∀ i, i < 256 → i ∈ held := by
      intro i hi
      have hm : i ∈ (List.range 256).map fun k => (n + k) % 256 := by
        refine List.mem_map.2 ⟨(i + 256 - n % 256) % 256, List.mem_range.2 (Nat.mod_lt _ (by decide)), ?_⟩
        omega
      simpa using hf i hm
    have hs : List.range 256 ⊆ held := fun i hi => hall i (List.mem_range.1 hi)
    have := (List.subperm_of_subset List.nodup_range hs).length_le
    simp at this
    omega

/-- Offering a record keeps the table's law; the record must bear the id it is given. -/
theorem recordsSound_offer (u : TripUnit) (make : Nat → TripRecord) (hm : ∀ i, (make i).id = i) (bf : Bool) (q : Seq)
    (h : u.recordsSound) : (u.offer make bf q).unit.recordsSound := by
  unfold TripUnit.offer
  split
  · rename_i hl
    refine ⟨?_, ?_⟩
    · simp only [List.length_append, List.length_cons, List.length_nil]; omega
    · simp only [List.map_append, List.map_cons, List.map_nil, hm]
      refine List.nodup_append.2 ⟨h.2, by simp, ?_⟩
      intro a ha b hb e
      simp at hb
      subst hb
      subst e
      refine freshId_fresh ?_ ha
      have : u.records.length < 8 := hl
      simp; omega
  · exact h

@[simp] theorem offer_bays (u : TripUnit) (make : Nat → TripRecord) (bf : Bool) (q : Seq) :
    (u.offer make bf q).unit.bays = u.bays := by
  unfold TripUnit.offer; split <;> rfl

theorem keeps_record (s : State) (make : Nat → TripRecord) (hm : ∀ i, (make i).id = i) (bf : Bool) (q : Seq)
    (r : Option Nat → Report) : Keeps s (s.record make bf q r) :=
  .after (keeps_postAll ..)
    ⟨rfl, fun h => ⟨h.1, h.2.1, ⟨fun p => by
      show ((s.trip.offer make bf q).unit.bays.get p).sound
      rw [offer_bays]; exact h.2.2.1.1 p, recordsSound_offer _ _ hm _ _ h.2.2.1.2⟩, h.2.2.2⟩⟩

@[simp] theorem tripState_record (s : State) (make : Nat → TripRecord) (bf : Bool) (q : Seq) (r : Option Nat → Report) (p : Pos) :
    (s.record make bf q r).tripState p = s.tripState p := by
  unfold State.record
  rw [tripState_postAll]
  show (s.trip.offer make bf q).unit.bays.get p = s.trip.bays.get p
  rw [offer_bays]

/-! ### Timing, decisions, back-trip -/

/-- Timing starts on bays that hold their trip latches. -/
theorem keeps_startAll (c : StartCause) : ∀ (ps : List Pos) (s : State), (∀ p ∈ ps, (s.tripState p).trip.set = true) →
    Keeps s (s.startAll ps c)
  | [], _, _ => .refl _
  | p :: ps, s, h => by
    have h1 : Keeps s (s.modTrip p (TripState.startTiming s.active c)) :=
      keeps_modTrip s p fun hs => sound_startTiming hs (h p List.mem_cons_self)
    refine h1.trans (keeps_startAll c ps _ fun r hr => ?_)
    have := h r (List.mem_cons_of_mem _ hr)
    by_cases e : r = p
    · subst e; rw [tripState_modTrip, startTiming_trip]; exact this
    · rw [tripState_modTrip_other _ e]; exact this

theorem mem_unlatched {s : State} {ps : List Pos} {p : Pos} (h : p ∈ s.unlatched ps) : p ∈ ps := List.mem_of_mem_filter h

theorem keeps_decideZone (s : State) (q : Seq) (z : EffZone) (st : ZoneState) : Keeps s (s.decideZone q z st) := by
  unfold State.decideZone
  simp only
  have h0 : Keeps s ((s.putZone { st with flag := some (connectedBays s.bays z.zones) }).setTrips
      (s.unlatched (connectedBays s.bays z.zones)) q) := .after (keeps_setTrips ..) (keeps_putZone ..)
  refine .ite h0 ?_
  refine h0.trans (.after (keeps_startAll _ _ _ fun p hp => ?_) (keeps_record _ _ (fun _ => rfl) _ _ _))
  rw [tripState_record]
  exact set_setTrips q _ _ p hp

theorem keeps_considerZone (q : Seq) (b : Bool) (s : State) (z : EffZone) : Keeps s (s.considerZone q b z) := by
  unfold State.considerZone
  split
  · exact .refl _
  · exact .ite (keeps_decideZone ..) (.refl _)

theorem keeps_decideAll (s : State) (q : Seq) : Keeps s (s.decideAll q) := by
  unfold State.decideAll
  split
  · exact .refl _
  · exact Keeps.foldl (keeps_considerZone q _) _ _

theorem keeps_initiate (s : State) (p : Pos) (q : Seq) : Keeps s (s.initiate p q) := by
  unfold State.initiate
  refine .ite (.after (keeps_postAll ..) ((keeps_setLatch s p .trip q).trans (keeps_modTrip _ p fun h => ?_))) (.refl _)
  exact sound_startTiming h (set_setLatch s p .trip q)

theorem keeps_initiateAll (s : State) (q : Seq) (h : Table BayHand) : Keeps s (s.initiateAll q h) :=
  Keeps.foldl (fun s p => keeps_initiate s p q) _ _

theorem keeps_failBreaker (s : State) (p : Pos) (q : Seq) (rs : List FailureReason) (i : Option (PerPhase Int))
    (ht : (s.tripState p).timing = true) : Keeps s (s.failBreaker p q rs i) := by
  unfold State.failBreaker
  simp only
  have h0 : Keeps s (s.modTrip p TripState.bfFails) := keeps_modTrip s p fun h => sound_bfFails h ht
  have h1 := h0.trans (keeps_setTrips (s.modTrip p TripState.bfFails) (s.unlatched (connectedToAny s.bays (s.backTripZones p))) q)
  have h3 : ∀ u, Keeps s u → (∀ x ∈ s.unlatched (connectedToAny s.bays (s.backTripZones p)), (u.tripState x).trip.set = true) →
      Keeps s (u.startAll (s.unlatched (connectedToAny s.bays (s.backTripZones p))) .backTrip) :=
    fun u hu hx => hu.trans (keeps_startAll _ _ _ hx)
  have hset := set_setTrips q (s.unlatched (connectedToAny s.bays (s.backTripZones p))) (s.modTrip p TripState.bfFails)
  have h4 : Keeps s ((if (s.bay p).kind = .feeder then
      ((s.modTrip p TripState.bfFails).setTrips (s.unlatched (connectedToAny s.bays (s.backTripZones p))) q).setLatch p .transferTrip q
      else (s.modTrip p TripState.bfFails).setTrips (s.unlatched (connectedToAny s.bays (s.backTripZones p))) q).startAll
        (s.unlatched (connectedToAny s.bays (s.backTripZones p))) .backTrip) := by
    apply h3
    · exact .ite (h1.trans (keeps_setLatch ..)) h1
    · intro x hx
      split
      · exact tripSet_setLatch _ _ _ _ _ (hset x hx)
      · exact hset x hx
  exact .ite (h4.trans (keeps_post ..)) (h4.trans (keeps_record _ _ (fun _ => rfl) _ _ _))

theorem keeps_expire (s : State) (p : Pos) (q : Seq) (i : Option (PerPhase Int)) (ht : (s.tripState p).timing = true) :
    Keeps s (s.expire p q i) := by
  unfold State.expire
  exact .ite (keeps_modTrip s p fun h => sound_bfIdle h) (keeps_failBreaker _ _ _ _ _ ht)

theorem keeps_advanceBay (s : State) (p : Pos) (q : Seq) (i : Option (PerPhase Int)) (ht : (s.tripState p).timing = true) :
    Keeps s (s.advanceBay p q i) := by
  unfold State.advanceBay
  exact .ite (keeps_modTrip s p fun h => sound_bfIdle h) (.ite (keeps_expire _ _ _ _ ht) (keeps_modTrip s p fun h => h))

theorem keeps_advanceTiming (q : Seq) (hs : Table BayHand) (s : State) (p : Pos) : Keeps s (s.advanceTiming q hs p) := by
  unfold State.advanceTiming
  split
  · rename_i ht; exact keeps_advanceBay _ _ _ _ ht
  · exact .refl _

theorem keeps_tripWork (s : State) (q : Seq) (hs : Table BayHand) (ts : List Pos) : Keeps s (s.tripWork q hs ts) :=
  .after (Keeps.foldl (keeps_advanceTiming q hs) _ _) ((keeps_decideAll ..).trans (keeps_initiateAll ..))

/-! ### RESET_TRIP, the stop -/

theorem keeps_resetBay (s : State) (p : Pos) (ht : (s.tripState p).timing = false) : Keeps s (s.resetBay p) :=
  (keeps_modTrip s p fun h => sound_resetTrip h ht).trans (keeps_examineFlags _)

theorem resetRefusal_timing {s : State} {p : Pos} (h : s.resetRefusal p = none) : (s.tripState p).timing = false := by
  unfold State.resetRefusal at h
  split at h
  · simp at h
  · split at h
    · simp at h
    · rename_i e; simpa using e

theorem keeps_resetIfPasses (s : State) (p : Pos) : Keeps s (s.resetIfPasses p) := by
  unfold State.resetIfPasses
  split
  · rename_i h; exact keeps_resetBay _ _ (resetRefusal_timing (by simpa using h))
  · exact .refl _

/-- Every bay's trip state changed where the change keeps what always holds of it. -/
theorem keeps_mapTrip (s : State) {f : TripState → TripState} (hf : ∀ t, t.sound → (f t).sound) :
    Keeps s { s with trip := { s.trip with bays := s.trip.bays.map f } } :=
  ⟨rfl, fun h => ⟨h.1, h.2.1, ⟨fun p => by
    show ((s.trip.bays.map f).get p).sound
    rw [Table.get_map]; exact hf _ (h.2.2.1.1 p), h.2.2.1.2⟩, h.2.2.2⟩⟩

end Sys2Proof.Machine
end

