-- ==== Sys2Proof/Laws/KeepsAll.lean ====
section
/-! SUPPORT. The work of the remaining blocks keeps what always holds of the state: settings, controller, releases, links, requests, the port, the clock. -/

namespace Sys2Proof.Machine

/-- The state t comes from s by work that leaves the queue and the pins alone and keeps what always holds. -/
structure Holds (s t : State) : Prop where
  pending : t.pending = s.pending
  pins : t.pins = s.pins
  sound : s.sound → t.sound

theorem Holds.refl (s : State) : Holds s s := ⟨rfl, rfl, id⟩

theorem Keeps.holds {s t : State} (h : Keeps s t) : Holds s t := ⟨h.pending, h.pins, h.sound⟩

theorem Holds.trans {s t u : State} (h : Holds s t) (k : Holds t u) : Holds s u :=
  ⟨k.pending.trans h.pending, k.pins.trans h.pins, fun x => k.sound (h.sound x)⟩

/-- The later work first. -/
theorem Holds.after {s t u : State} (k : Holds t u) (h : Holds s t) : Holds s u := h.trans k

theorem Holds.ite {s t u : State} {c : Prop} [Decidable c] (h : Holds s t) (k : Holds s u) : Holds s (if c then t else u) := by
  split <;> assumption

/-- Work outside the queue, the pins, the port, the settings, the trip unit and the pool. -/
theorem Holds.same {s t : State} (n : t.pending = s.pending) (i : t.pins = s.pins) (p : t.port = s.port)
    (g : t.settings = s.settings) (u : t.trip = s.trip) (q : t.pool = s.pool) : Holds s t :=
  ⟨n, i, fun h => by unfold State.sound at *; rw [p, g, u, q]; exact h⟩

/-! ### SettingsStore.lean -/

/-- Work on the settings store alone. -/
theorem keeps_settings (s : State) {t : SettingsStore} (h : s.settings.sound → t.sound) : Keeps s { s with settings := t } :=
  ⟨rfl, fun k => ⟨k.1, h k.2.1, k.2.2⟩⟩

theorem sound_exchanged {t : SettingsStore} (v : t.stagedValid = true) (h : t.sound) : t.exchanged.sound :=
  ⟨h.2.1 v, fun _ => h.1, fun e => by simp [SettingsStore.exchanged] at e⟩

theorem sound_stage {t : SettingsStore} (g : Settings) (p : t.switchPending = false) (h : t.sound) : (t.stage g).sound :=
  ⟨h.1, id, fun e => by simp [SettingsStore.stage, p] at e⟩

theorem sound_unpend {t : SettingsStore} (h : t.sound) : t.unpend.sound := by
  unfold SettingsStore.unpend
  split
  · exact ⟨h.1, h.2.1, fun e => by simp at e⟩
  · exact h

theorem keeps_exchange (s : State) (x : SwitchTrigger) (v : s.sound → s.settings.stagedValid = true) : Keeps s (s.exchange x) :=
  .after (keeps_post ..) (.after (keeps_emptyWindows _)
    ⟨rfl, fun h => ⟨h.1, sound_exchanged (v h) h.2.1, h.2.2⟩⟩)

theorem keeps_decideBoundary (s : State) (q : Seq) (p : Protection) : Keeps s (s.decideBoundary q p) := by
  unfold State.decideBoundary
  split
  · rename_i h
    simp only [Bool.and_eq_true] at h
    split
    · exact keeps_exchange _ _ fun k => k.2.1.2.2 h.1.2
    · exact keeps_settings _ fun k => k
  · exact .refl _

theorem keeps_askStageSettings (vs : List Nat) (s : State) : Keeps s (askStageSettings vs s).state := by
  unfold askStageSettings
  split
  · exact .refl _
  · split
    · exact .refl _
    · rename_i h; exact keeps_settings _ (sound_stage _ (by simpa using h))

theorem keeps_askSwitchSettings (s : State) : Keeps s (askSwitchSettings s).state := by
  unfold askSwitchSettings
  split
  · exact .refl _
  · split
    · exact .refl _
    · rename_i h
      have hv : s.settings.stagedValid = true := by simpa using h
      split
      · exact keeps_settings _ fun k => ⟨k.1, k.2.1, fun _ => hv⟩
      · exact keeps_exchange _ _ fun _ => hv

theorem keeps_askSwitchSettingsCancel (s : State) : Keeps s (askSwitchSettingsCancel s).state := keeps_settings _ sound_unpend

theorem keeps_askReadSettings (n : Nat) (s : State) : Keeps s (askReadSettings n s).state := by
  unfold askReadSettings
  split <;> exact .refl _

/-! ### Protection.lean -/

/-- Work on the controller alone. -/
theorem keeps_controller (s : State) (c : Controller) : Keeps s { s with controller := c } := .same rfl rfl rfl rfl rfl

theorem keeps_endStart (s : State) (r : StartResult) : Keeps s (s.endStart r) := .after (keeps_post ..) (keeps_controller ..)

theorem keeps_succeedStart (s : State) : Keeps s s.succeedStart :=
  .after (keeps_endStart ..) (.after (keeps_dropEvaluation _) (keeps_controller ..))

theorem keeps_testStart (s : State) : Keeps s s.testStart := .ite (keeps_succeedStart s) (.refl s)
theorem keeps_failStart (s : State) : Keeps s s.failStart := .after (keeps_endStart ..) (keeps_controller ..)
theorem keeps_abortStart (s : State) : Keeps s s.abortStart := .after (keeps_endStart ..) (keeps_controller ..)

theorem keeps_tickWait (s : State) : Keeps s s.tickWait := .ite (keeps_failStart s) (.ite (keeps_controller ..) (.refl s))

theorem keeps_stopRunning (s : State) : Keeps s s.stopRunning :=
  .after (keeps_dropEvaluation _)
    (.after (keeps_controller _ { s.controller with protection := .halted }) (keeps_mapTrip s fun _ => sound_forgive))

theorem keeps_abortAll (s : State) : Keeps s s.abortAll := by
  unfold State.abortAll
  simp only
  exact .ite (.after (keeps_abortStart _) (Keeps.foldl keeps_abortLinkOp _ _)) (Keeps.foldl keeps_abortLinkOp _ _)

theorem holds_restartBlocks (s : State) : Holds s s.restartBlocks := by
  refine ⟨rfl, rfl, fun k => ?_⟩
  refine ⟨⟨by simp [State.restartBlocks, Port.restarted], fun e => by simp [State.restartBlocks, Port.restarted] at e⟩,
    ⟨k.2.1.1, k.2.1.2.1, fun e => by simp [State.restartBlocks, SettingsStore.restarted] at e⟩,
    ⟨fun p => ?_, ⟨by simp [State.restartBlocks, TripUnit.restarted], by simp [State.restartBlocks, TripUnit.restarted]⟩⟩,
    fun p => ?_⟩
  · show ((s.trip.bays.map TripState.restarted).get p).sound
    rw [Table.get_map]; exact sound_restarted _
  · show framesSorted ((poolRestarted s.bays s.clock.current).get p).frames = true
    unfold poolRestarted
    rw [Table.get_map]; rfl

theorem holds_warmRestart (s : State) : Holds s s.warmRestart := (keeps_abortAll s).holds.trans (holds_restartBlocks _)

/-! ### ReleaseUnit.lean -/

theorem keeps_workBay (q : Seq) (s : State) (p : Pos) : Keeps s (s.workBay q p) := by
  unfold State.workBay
  simp only
  refine .ite (.after (keeps_postAll ..) ?_) (.refl _)
  exact .ite (.after (keeps_cancelOrders ..) (.after (keeps_postAll ..) (keeps_modBay ..)))
    (.after (keeps_postAll ..) (keeps_modBay ..))

theorem keeps_workBays (s : State) (q : Seq) : Keeps s (s.workBays q) :=
  .after (keeps_testStart _) (Keeps.foldl (keeps_workBay q) _ _)

theorem keeps_protect (s : State) (q : Seq) (h : Table BayHand) (ts : List Pos) : Keeps s (s.protect q h ts) := by
  unfold State.protect
  split
  · exact .refl _
  · exact .after (keeps_tripWork ..) (.after (keeps_supervise ..) (keeps_evaluate ..))

/-- A release leaves the queue, the pins and the clock alone. -/
theorem holds_beginRelease (s : State) : Holds s s.beginRelease := .same rfl rfl rfl rfl rfl rfl

theorem holds_advanceNext (s : State) (q : Seq) : Holds s (s.advanceNext q) :=
  .after (keeps_advanceGrants _).holds (.same rfl rfl rfl rfl rfl rfl)

theorem holds_release (s : State) : Holds s s.release := by
  unfold State.release
  simp only
  have h1 : Holds s (((s.beginRelease.workBays s.next).acknowledgeAll s.next (s.hands s.next)).settlePicture s.next) :=
    (holds_beginRelease s).trans (((keeps_workBays ..).trans ((keeps_acknowledgeAll ..).trans (keeps_settlePicture ..))).holds)
  have h2 := Holds.ite (c := s.controller.protection = .running)
    (h1.trans (keeps_protect _ s.next (s.hands s.next) s.timingBays).holds) h1
  exact h2.trans (((keeps_decideBoundary ..).trans (keeps_freeSlots ..)).holds.trans (holds_advanceNext ..))

/-- Steps 2 to 6 of a release are work on the state that step 1 leaves; then every slot for the sequence is free, and step 7 follows. -/
theorem release_steps (s : State) : ∃ x : State, s.release = (x.freeSlots s.next).advanceNext s.next ∧ Keeps s.beginRelease x := by
  refine ⟨_, rfl, ?_⟩
  refine .after (keeps_decideBoundary ..) ?_
  have h1 := (keeps_workBays s.beginRelease s.next).trans
    ((keeps_acknowledgeAll _ s.next (s.hands s.next)).trans (keeps_settlePicture _ s.next))
  split
  · exact h1.trans (keeps_protect ..)
  · exact h1

theorem frames_drainCheck (s : State) (p q : Pos) : ((s.drainCheck p).linkPool q).frames = (s.linkPool q).frames := by
  unfold State.drainCheck
  split
  · show ((s.modPool p fun x => x.applied s.next (s.bay p).alloc).linkPool q).frames = _
    unfold State.linkPool State.modPool
    simp only [Table.get_modify]
    split
    · rename_i e; subst e; rfl
    · rfl
  · rfl

/-- Step 7 moves no frame. -/
theorem frames_advanceNext (s : State) (n : Seq) (q : Pos) : ((s.advanceNext n).linkPool q).frames = (s.linkPool q).frames := by
  unfold State.advanceNext State.advanceGrants
  have fold : ∀ (ps : List Pos) (t : State), ((ps.foldl State.drainCheck t).linkPool q).frames = (t.linkPool q).frames := by
    intro ps
    induction ps with
    | nil => intro t; rfl
    | cons p ps ih => intro t; rw [List.foldl_cons, ih, frames_drainCheck]
  rw [fold]
  unfold State.linkPool
  simp only [Table.get_map]
  split <;> rfl

/-- After a release no slot holds a frame for its sequence (R90). -/
theorem frames_release (s : State) (q : Pos) (f : StoredFrame) (h : f ∈ (s.release.linkPool q).frames) : f.sequence ≠ s.next := by
  obtain ⟨x, e, _⟩ := release_steps s
  rw [e, frames_advanceNext] at h
  unfold State.freeSlots State.linkPool at h
  simp only [Table.get_map, freeFrame, List.mem_filter, bne_iff_ne] at h
  exact h.2

/-- What a release leaves of the clock and of the Release Unit (R54, R58). -/
theorem clock_release (s : State) : s.release.clock = s.clock := by
  obtain ⟨x, e, k⟩ := release_steps s
  rw [e]
  exact (keeps_advanceGrants _).clock.trans ((keeps_freeSlots x s.next).clock.trans k.clock)

theorem releaseUnit_release (s : State) :
    s.release.releaseUnit = { next := s.next + 1, blockCounter := s.next.toNat % 256 } := by
  obtain ⟨x, e, k⟩ := release_steps s
  have u : (x.freeSlots s.next).releaseUnit = s.beginRelease.releaseUnit := (keeps_freeSlots x s.next).releaseUnit.trans k.releaseUnit
  rw [e, State.advanceNext, (keeps_advanceGrants _).releaseUnit]
  show ReleaseUnit.mk _ (x.freeSlots s.next).releaseUnit.blockCounter = _
  rw [u]; rfl

theorem clock_settleBy : ∀ (n : Nat) (s : State), (s.settleBy n).clock = s.clock
  | 0, _ => rfl
  | n + 1, s => by
    unfold State.settleBy
    split
    · rw [clock_settleBy n, clock_release]
    · rfl

theorem clock_settle (s : State) : s.settle.clock = s.clock := clock_settleBy ..

theorem holds_settleBy : ∀ (n : Nat) (s : State), Holds s (s.settleBy n)
  | 0, s => .refl s
  | n + 1, s => .ite ((holds_release s).trans (holds_settleBy n _)) (.refl s)

theorem holds_settle (s : State) : Holds s s.settle := holds_settleBy ..

theorem keeps_stickElement (s : State) (p : Pos) (e : Element) : Keeps s (s.stickElement p e) :=
  .ite ((keeps_modBay ..).trans (keeps_post ..)) (.refl s)

/-! ### BayLinks.lean -/

theorem keeps_sendFrames (s : State) : Keeps s s.sendFrames := .same rfl rfl rfl rfl rfl

theorem keeps_closeLink (s : State) (p : Pos) (d w : Bool) : Keeps s (s.closeLink p d w) :=
  .after (keeps_modLink ..) (.after (keeps_discardFrames ..) (keeps_abortLinkOp ..))

theorem keeps_activate (s : State) (p : Pos) : Keeps s (s.activate p) :=
  .after (keeps_testStart _)
    (.ite ((keeps_modLink ..).trans (keeps_post ..)) (((keeps_modLink ..).trans (keeps_post ..)).trans (keeps_endLinkOp ..)))

theorem keeps_failBringUp (s : State) (p : Pos) (r : LinkResult) : Keeps s (s.failBringUp p r) :=
  (keeps_modLink ..).trans (keeps_endLinkOp ..)

theorem keeps_failMeasure (s : State) (p : Pos) (r : LinkResult) : Keeps s (s.failMeasure p r) :=
  .ite (keeps_modLink ..) (keeps_failBringUp ..)

theorem keeps_measure (s : State) (p : Pos) (q : Seq) : Keeps s (s.measure p q) := by
  unfold State.measure
  simp only
  split
  · exact (keeps_modLink ..).trans ((keeps_countError ..).trans (keeps_failMeasure ..))
  · exact (keeps_modLink ..).trans ((keeps_countError ..).trans (keeps_failMeasure ..))
  · exact (keeps_modLink ..).trans (keeps_activate ..)
  · exact keeps_modLink ..

theorem keeps_activeFrame (s : State) (p : Pos) (f : StoredFrame) : Keeps s (s.activeFrame p f) := by
  unfold State.activeFrame
  simp only
  split
  · exact (keeps_modLink ..).trans (keeps_countError ..)
  · exact (keeps_modLink ..).trans (keeps_modPool _ _ fun h => framesSorted_insert _ _ h)

theorem keeps_dormantFrame (s : State) (p : Pos) (q : Seq) : Keeps s (s.dormantFrame p q) :=
  .ite (.refl s) (.ite ((keeps_modLink ..).trans (keeps_post ..))
    (.ite ((keeps_modLink ..).trans (keeps_post ..)) ((keeps_modLink ..).trans (keeps_post ..))))

theorem keeps_badFrame (s : State) (p : Pos) (k : ErrorKind) : Keeps s (s.badFrame p k) := by
  unfold State.badFrame
  simp only
  split
  · exact (keeps_countError ..).trans (keeps_modLink ..)
  · exact (keeps_countError ..).trans (keeps_modLink ..)
  · exact keeps_countError ..

theorem keeps_goodFrame (s : State) (p : Pos) (f : StoredFrame) : Keeps s (s.goodFrame p f) := by
  unfold State.goodFrame
  split
  · exact .refl _
  · exact keeps_dormantFrame ..
  · exact keeps_modLink ..
  · exact .ite (keeps_modLink ..) (keeps_modLink ..)
  · exact .ite (keeps_measure ..) (keeps_modLink ..)
  · exact keeps_activeFrame ..

theorem keeps_arrive (s : State) (p : Pos) (bs : List Byte) : Keeps s (s.arrive p bs) := by
  unfold State.arrive
  split
  · exact keeps_goodFrame ..
  · exact .ite (keeps_badFrame ..) (.refl s)
  · exact .ite (keeps_badFrame ..) (.refl s)

theorem holds_settleAfter {s t : State} (u : State) (h : Holds s t) : Holds s (State.settleAfter u t) :=
  .ite h (h.trans (holds_settle t))

theorem holds_arrival (s : State) (p : Pos) (bs : List Byte) : Holds s (s.arrival p bs) :=
  .ite ((keeps_arrive ..).holds.trans (holds_settle _)) (holds_settleAfter _ (keeps_arrive ..).holds)

theorem keeps_timeLock (s : State) (p : Pos) : Keeps s (s.timeLock p) := keeps_modLink ..

theorem keeps_loseSync (s : State) (p : Pos) : Keeps s (s.loseSync p) := by
  unfold State.loseSync
  simp only
  exact .after (keeps_modLink ..) (.ite ((keeps_modLink ..).trans (keeps_countError ..))
    (((keeps_modLink ..).trans (keeps_countError ..)).trans (keeps_post ..)))

theorem keeps_tickTimer (s : State) (p : Pos) : Keeps s (s.tickTimer p) := .ite (keeps_failBringUp ..) (keeps_modLink ..)

theorem keeps_tickLink (s : State) (p : Pos) : Keeps s (s.tickLink p) := by
  unfold State.tickLink
  split
  · exact .refl _
  · exact .refl _
  · exact (keeps_modLink ..).trans (keeps_tickTimer ..)
  · exact .after (keeps_tickTimer ..) (.ite (keeps_timeLock ..) (keeps_modLink ..))
  · exact .after (keeps_tickTimer ..) (.ite (keeps_timeLock ..) (keeps_modLink ..))
  · exact .ite (keeps_loseSync ..) (keeps_modLink ..)

theorem keeps_tickLinks (s : State) : Keeps s s.tickLinks := Keeps.foldl keeps_tickLink _ _

theorem keeps_openLink (s : State) (p : Pos) (e : Nat) : Keeps s (s.openLink p e).state := by
  unfold State.openLink
  split
  · exact .refl _
  split
  · exact .refl _
  split
  · exact .refl _
  split
  · exact .refl _
  · exact keeps_modLink ..

theorem keeps_askOpenLink (b e : Nat) (s : State) : Keeps s (askOpenLink b e s).state := by
  unfold askOpenLink
  split
  · split
    · exact keeps_openLink ..
    · exact .refl _
  · exact .refl _

theorem keeps_askCloseLink (b d w : Nat) (s : State) : Keeps s (askCloseLink b d w s).state := by
  unfold askCloseLink
  split
  · split
    · exact .refl _
    · unfold State.closeRequest
      split
      · exact .refl _
      · split
        · exact .refl _
        · exact keeps_closeLink ..
  · exact .refl _

theorem keeps_askReadLink (b c : Nat) (s : State) : Keeps s (askReadLink b c s).state := by
  unfold askReadLink
  split
  · exact .ite (keeps_modLink ..) (.refl s)
  · exact .refl _

theorem keeps_applyAlloc (s : State) (p : Pos) (a : Nat) : Keeps s (s.applyAlloc p a) :=
  Keeps.after (keeps_modPool _ _ id) (keeps_modBay ..)

theorem keeps_beginShrink (s : State) (p : Pos) (a : Nat) : Keeps s (s.beginShrink p a) :=
  .after (keeps_modLink ..) (.after (keeps_modPool _ _ id) (keeps_modBay ..))

theorem keeps_reallocate (s : State) (p : Pos) (a : Nat) : Keeps s (s.reallocate p a).state := by
  unfold State.reallocate
  split
  · exact .refl _
  split
  · exact .refl _
  split
  · exact .refl _
  split
  · exact .refl _
  split
  · split
    · exact .refl _
    · exact keeps_applyAlloc ..
  split
  · exact keeps_applyAlloc ..
  split
  · exact .refl _
  · exact keeps_beginShrink ..

theorem keeps_askReallocate (b a : Nat) (s : State) : Keeps s (askReallocate b a s).state := by
  unfold askReallocate
  split
  · exact .refl _
  · split
    · exact .refl _
    · exact keeps_reallocate ..

/-! ### BayRequests.lean, ZoneRequests.lean -/

theorem keeps_configured (s : State) (p : Pos) (k : BayKind) (x : SectionNo) (u : Bus) (c : Nat) (o : Polarity) (a : Nat) :
    Keeps s (s.configured p k x u c o a) := Keeps.after (keeps_modPool _ _ id) (keeps_modBay ..)

theorem keeps_configure (s : State) (p : Pos) (k : BayKind) (x : SectionNo) (u : Bus) (c : Nat) (o : Polarity) (a : Nat) :
    Keeps s (s.configure p k x u c o a).state := by
  unfold State.configure
  repeat' split
  all_goals first | exact .refl _ | exact keeps_configured ..

theorem keeps_askConfigureBay (b k x u c o a : Nat) (s : State) : Keeps s (askConfigureBay b k x u c o a s).state := by
  unfold askConfigureBay
  repeat' split
  all_goals first | exact .refl _ | exact keeps_configure ..

/-- A bay that is not TIMING leaves service: its trip state keeps what always holds. -/
theorem keeps_leaveService (s : State) (p : Pos) (ht : (s.tripState p).timing = false) : Keeps s (s.leaveService p) :=
  .after (keeps_modBay ..) (.after (keeps_modLink ..) (.after (keeps_closeLink ..) (.after (keeps_cancelOrders ..)
    (keeps_resetBay s p ht))))

theorem keeps_changeService (s : State) (p : Pos) (v : Service) (ht : v = .outOfService → (s.tripState p).timing = false) :
    Keeps s (s.changeService p v) := by
  unfold State.changeService
  simp only
  refine Keeps.after (.same rfl rfl rfl rfl rfl) (t := if v = .outOfService then
    (s.modBay p fun b => { b with service := v }).leaveService p
    else (s.modBay p fun b => { b with service := v }).cancelOrders p (serviceCancels (s.bay p).service v) .service) ?_
  split
  · rename_i e
    exact (keeps_modBay ..).trans (keeps_leaveService _ _ (ht e))
  · exact (keeps_modBay ..).trans (keeps_cancelOrders ..)

theorem holds_askSetService (b t : Nat) (s : State) : Holds s (askSetService b t s).state := by
  unfold askSetService
  split
  · unfold State.setService
    repeat' split
    all_goals first | exact .refl _ | skip
    rename_i h
    have hk := keeps_changeService s _ _ fun e => by
      cases hb : (s.tripState _).timing
      · rfl
      · exact absurd ⟨e, hb⟩ h
    exact .ite (hk.holds.trans (holds_settle _)) hk.holds
  · exact .refl _

theorem keeps_askOverride (b e v : Nat) (s : State) : Keeps s (askOverride b e v s).state := by
  unfold askOverride
  repeat' split
  all_goals first | exact .refl _ | exact .same rfl rfl rfl rfl rfl

theorem keeps_askReadBay (b : Nat) (s : State) : Keeps s (askReadBay b s).state := by
  unfold askReadBay
  split <;> exact .refl _

theorem keeps_askBlockZone (zs : List Nat) (s : State) : Keeps s (askBlockZone zs s).state := by
  unfold askBlockZone
  repeat' split
  all_goals first | exact .refl _ | exact .same rfl rfl rfl rfl rfl

theorem keeps_clearCheckCts (s : State) : Keeps s s.clearCheckCts := .same rfl rfl rfl rfl rfl

theorem keeps_unblockZones (s : State) (zs : List BusZone) (c : Bool) : Keeps s (s.unblockZones zs c) := by
  unfold State.unblockZones
  simp only
  have h := Keeps.foldl keeps_clearCtsOf s (s.replica.ctsSet zs)
  have h' := Keeps.ite (c := (c && s.replica.checkCts) = true) (h.trans (keeps_clearCheckCts _)) h
  generalize (if (c && s.replica.checkCts) = true then _ else _) = t at h'
  exact h'.trans (.same rfl rfl rfl rfl rfl)

theorem keeps_askUnblockZone (zs : List Nat) (c : Nat) (s : State) : Keeps s (askUnblockZone zs c s).state := by
  unfold askUnblockZone
  repeat' split
  all_goals first | exact .refl _ | exact keeps_unblockZones ..

/-! ### Controller.lean -/

theorem holds_askSetStation (f d m x : Nat) (s : State) : Holds s (askSetStation f d m x s).state := by
  unfold askSetStation
  split
  · exact .refl _
  · split
    · exact .refl _
    · split
      · exact .refl _
      · have h : ∀ t, Holds s (s.writeStation t) := fun t => .same rfl rfl rfl rfl rfl rfl
        exact .ite (h _) ((h _).trans (holds_settle _))

theorem keeps_startWithoutFeeder (s : State) : Keeps s s.startWithoutFeeder := .after (keeps_endStart ..) (keeps_controller ..)

theorem holds_askStartProtection (e : Nat) (s : State) : Holds s (askStartProtection e s).state := by
  unfold askStartProtection
  repeat' split
  · exact .refl _
  · exact .refl _
  · unfold State.start
    split
    · exact holds_settleAfter _ ((keeps_controller _ _).trans (keeps_testStart (s.beginStart e))).holds
    · exact (keeps_startWithoutFeeder s).holds

theorem holds_askStopProtection (s : State) : Holds s (askStopProtection s).state := by
  unfold askStopProtection State.stop
  split
  · exact .refl _
  · exact (keeps_abortStart s).holds.trans (holds_settle _)
  · split
    · exact .refl _
    · exact (keeps_stopRunning s).holds.trans (holds_settle _)

theorem keeps_askQueryOperation (t : Nat) (s : State) : Keeps s (askQueryOperation t s).state := by
  unfold askQueryOperation
  repeat' split
  all_goals exact .refl _

/-! ### TripUnit.lean's requests -/

theorem keeps_askResetTrip (t : Nat) (s : State) : Keeps s (askResetTrip t s).state := by
  unfold askResetTrip
  split
  · exact Keeps.foldl keeps_resetIfPasses _ _
  · unfold State.resetOne
    repeat' split
    all_goals first | exact .refl _ | skip
    rename_i h
    exact keeps_resetBay _ _ (resetRefusal_timing h)

theorem keeps_askSendOrder (b k a : Nat) (s : State) : Keeps s (askSendOrder b k a s).state := by
  unfold askSendOrder
  split
  · split
    · unfold State.sendOrder
      split
      · exact .refl _
      · rename_i h
        refine keeps_modTrip _ _ fun hs => sound_give hs ?_
        unfold State.orderRefusal at h
        split at h
        · simp at h
        split at h
        · simp at h
        split at h
        · simp at h
        split at h
        · simp at h
        · rename_i hl; simpa using hl
    · exact .refl _
  · exact .refl _

theorem keeps_askReadRecord (x i : Nat) (s : State) : Keeps s (askReadRecord x i s).state := by
  unfold askReadRecord
  split <;> exact .refl _

theorem keeps_askReleaseRecord (i : Nat) (s : State) : Keeps s (askReleaseRecord i s).state := by
  unfold askReleaseRecord
  split
  · exact ⟨rfl, fun h => ⟨h.1, h.2.1, ⟨h.2.2.1.1,
      Nat.le_trans (List.length_filter_le ..) h.2.2.1.2.1,
      List.Nodup.sublist (List.Sublist.map _ List.filter_sublist) h.2.2.1.2.2⟩, h.2.2.2⟩⟩
  · exact .refl _

/-! ### MessagePort.lean -/

/-- Work on the port alone. -/
theorem holds_port (s : State) {q : Port} (h : s.port.sound → q.sound) : Holds s { s with port := q } :=
  ⟨rfl, rfl, fun k => ⟨h k.1, k.2⟩⟩

/-- Work on the port that leaves the notice queue and ATTN. -/
theorem holds_portQuiet (s : State) {q : Port} (n : q.notices = s.port.notices) (a : q.attn = s.port.attn) :
    Holds s { s with port := q } :=
  holds_port s fun h => by unfold Port.sound at *; rw [n, a]; exact h

theorem sound_fetched {q : Port} (r : Bool) (h : q.sound) : (q.fetched r).sound := by
  refine ⟨?_, fun e => ?_⟩
  · show (q.notices.drop Config.fetchLimit).length ≤ _
    rw [List.length_drop]; exact Nat.le_trans (Nat.sub_le ..) h.1
  · intro hn
    have : (q.fetched r).attn = false := by
      have hn : q.notices.drop Config.fetchLimit = [] := hn
      simp [Port.fetched, hn]
    rw [this] at e; cases e

theorem holds_askIdentify (c : Nat) (s : State) : Holds s (askIdentify c s).state := by
  unfold askIdentify
  split
  · exact .refl _
  · exact .ite (holds_portQuiet _ rfl rfl) (.refl s)

theorem holds_askFetchNotices (r : Nat) (s : State) : Holds s (askFetchNotices r s).state := by
  unfold askFetchNotices
  split
  · exact .refl _
  · exact holds_port _ (sound_fetched _)

theorem holds_askSwitch (c : Nat) (s : State) : Holds s (askSwitch c s).state := by
  unfold askSwitch
  split
  · exact .refl _
  · exact (keeps_askSwitchSettings s).holds
  · exact (keeps_askSwitchSettingsCancel s).holds

/-- What an owner found by the port does to the state. -/
theorem holds_ownerOf (k : Nat) (ns : List Nat) (work : State → Answer) (h : ownerOf k ns = .owner work) (s : State) :
    Holds s (work s).state := by
  unfold ownerOf at h
  split at h <;> first
    | (cases h; first
        | exact .refl _
        | exact holds_askIdentify ..
        | exact holds_askFetchNotices ..
        | exact holds_askSetStation ..
        | exact holds_askStartProtection ..
        | exact holds_askStopProtection ..
        | exact holds_askSetService ..
        | exact holds_askSwitch ..
        | exact (keeps_askQueryOperation ..).holds
        | exact (keeps_askConfigureBay ..).holds
        | exact (keeps_askOverride ..).holds
        | exact (keeps_askReadBay ..).holds
        | exact (keeps_askOpenLink ..).holds
        | exact (keeps_askCloseLink ..).holds
        | exact (keeps_askReadLink ..).holds
        | exact (keeps_askReallocate ..).holds
        | exact (keeps_askStageSettings ..).holds
        | exact (keeps_askReadSettings ..).holds
        | exact (keeps_askSendOrder ..).holds
        | exact (keeps_askResetTrip ..).holds
        | exact (keeps_askReadRecord ..).holds
        | exact (keeps_askReleaseRecord ..).holds)
    | cases h

theorem holds_respond (s : State) (r : RawRequest) : Holds s (s.respond r).state := by
  unfold State.respond
  split
  · exact .refl _
  · exact .refl _
  · rename_i work h
    unfold RawRequest.read at h
    split at h
    · cases h
    split at h
    · split at h
      · cases h; exact (keeps_askBlockZone ..).holds
      · cases h
    split at h
    · split at h
      · cases h; exact (keeps_askUnblockZone ..).holds
      · cases h
    split at h
    · exact holds_ownerOf _ _ _ h s
    · cases h

theorem holds_takeIntoWork (s : State) (r : RawRequest) : Holds s (s.takeIntoWork r) :=
  (holds_respond s r).trans ⟨rfl, rfl, id⟩

theorem transmit_notices (q : Port) : q.transmit.notices = q.notices := by
  unfold Port.transmit
  split
  · rfl
  · split <;> rfl
  · rfl

theorem transmit_attn (q : Port) : q.transmit.attn = q.attn := by
  unfold Port.transmit
  split
  · rfl
  · split <;> rfl
  · rfl

theorem holds_transmit (s : State) : Holds s s.transmit := holds_portQuiet _ (transmit_notices _) (transmit_attn _)

theorem turnAway_notices (q : Port) (r : RawRequest) : (q.turnAway r).notices = q.notices := by
  unfold Port.turnAway; split <;> rfl

theorem turnAway_attn (q : Port) (r : RawRequest) : (q.turnAway r).attn = q.attn := by
  unfold Port.turnAway; split <;> rfl

theorem holds_receive (s : State) (r : RawRequest) : Holds s (s.receive r) :=
  .ite ((holds_takeIntoWork ..).trans (holds_transmit _)) (.ite (holds_portQuiet _ rfl rfl)
    ((holds_portQuiet _ (turnAway_notices ..) (turnAway_attn ..)).trans (holds_transmit _)))

theorem holds_workHeld (s : State) : Holds s s.workHeld := by
  unfold State.workHeld
  split
  · exact .refl _
  · exact Holds.trans (t := { s with port := { s.port with held := none } }) (holds_portQuiet _ rfl rfl) (holds_takeIntoWork ..)

theorem holds_emptyCurrent (s : State) : Holds s s.emptyCurrent := holds_portQuiet _ rfl rfl

theorem holds_finishReply (s : State) : Holds s s.finishReply := by
  unfold State.finishReply
  split
  · exact .refl _
  · exact .ite ⟨rfl, rfl, id⟩ ((holds_emptyCurrent s).trans (holds_workHeld _))

theorem holds_endRestart (s : State) : Holds s s.endRestart := by
  unfold State.endRestart
  split
  · exact .refl _
  · exact .ite (((holds_emptyCurrent s).trans (holds_workHeld _)).trans (holds_transmit _)) (.refl s)

theorem holds_restart (s : State) : Holds s s.restart := (holds_warmRestart s).trans (holds_endRestart _)

theorem sound_holdReset {s : State} (h : s.sound) : s.holdReset.sound :=
  ⟨⟨h.1.1, fun e => by simp [State.holdReset] at e⟩, h.2⟩

/-- Power-on reset leaves a sound state, whatever was there. -/
theorem sound_powerOn (r1 r0 : Bool) (cs : List Instr) : (State.powerOn r1 r0 cs).sound := by
  refine ⟨⟨by simp [State.powerOn, Port.reset], fun e => by simp [State.powerOn, Port.reset] at e⟩,
    ⟨show Settings.default.valid = true by decide, fun e => by simp [State.powerOn, SettingsStore.reset] at e,
      fun e => by simp [State.powerOn, SettingsStore.reset] at e⟩,
    ⟨fun p => ?_, ⟨by simp [State.powerOn, TripUnit.reset], by simp [State.powerOn, TripUnit.reset]⟩⟩, fun p => ?_⟩
  · show ((Table.replicate TripState.reset).get p).sound
    rw [Table.get_replicate]; exact sound_reset
  · show framesSorted ((Table.replicate LinkPool.reset).get p).frames = true
    rw [Table.get_replicate]; rfl

/-! ### SequenceClock.lean -/

theorem holds_clock (s : State) (c : Clock) : Holds s { s with clock := c } := .same rfl rfl rfl rfl rfl rfl

theorem holds_changeClock (s : State) (c : Clock) (k : ClockCause) : Holds s (s.changeClock c k) :=
  .ite (holds_clock s c) (holds_settleAfter s (.after (keeps_testStart _).holds (.after (keeps_post ..).holds (holds_clock s c))))

theorem holds_boundaryWork (s : State) : Holds s s.boundaryWork := by
  have h1 : Holds s s.restartIfPending := .ite (holds_restart s) (.refl s)
  have h2 : Holds s s.restartIfPending.advanceClock := h1.trans (holds_clock ..)
  have h3 : Holds s s.restartIfPending.advanceClock.sendFrames := h2.trans (keeps_sendFrames _).holds
  have h4 : Holds s s.restartIfPending.advanceClock.sendFrames.tickTimers :=
    h3.trans (((keeps_tickLinks _).trans (keeps_tickTrips _)).trans (keeps_tickWait _)).holds
  exact h4.trans (holds_settle _)

end Sys2Proof.Machine
end

