-- ==== Sys2Proof/Laws/Budget.lean ====
section
/-! SUPPORT. The arithmetic of the Frame Pool: the window of a grant, how many frames a window can hold, and the budget after one bay has changed. -/

namespace Sys2Proof.Machine

/-! ### The window of a grant (R86, R88) -/

theorem toNat_one : (1 : Seq).toNat = 1 := rfl

/-- Not behind next_release and not ahead of a grant of n: one of the n sequences from next_release on. -/
theorem inWindow {f next : Seq} {n : Nat} (h : 2 ≤ n) (k : n ≤ 64) :
    (behind f next = false ∧ ahead f (grantFor next n) = false) ↔ (f - next).toNat < n := by
  have e : (grantFor next n) = next + BitVec.ofNat 16 (n - 1) := by
    unfold grantFor seqOf
    apply BitVec.eq_of_toNat_eq
    simp only [BitVec.toNat_add, BitVec.toNat_sub, BitVec.toNat_ofNat, toNat_one]
    omega
  rw [e]
  unfold behind ahead
  have hf := f.isLt
  have hn := next.isLt
  simp only [Bool.and_eq_false_iff, decide_eq_false_iff_not, BitVec.toNat_sub, BitVec.toNat_add, BitVec.toNat_ofNat]
  omega

/-- The held span is n exactly where the grant limit is that of a span n. -/
theorem heldSpan_iff {q : LinkPool} {next : Seq} {n : Nat} (h : 1 ≤ n) (k : n ≤ 64) :
    q.heldSpan next = n ↔ q.grant = grantFor next n := by
  unfold LinkPool.heldSpan signedDiff grantFor seqOf
  have hg := q.grant.isLt
  have hn := next.isLt
  constructor
  · intro e
    apply BitVec.eq_of_toNat_eq
    simp only [BitVec.toInt_eq_toNat_cond, BitVec.toNat_sub, BitVec.toNat_add, BitVec.toNat_ofNat, toNat_one] at e ⊢
    split at e <;> omega
  · intro e
    rw [e]
    simp only [BitVec.toInt_eq_toNat_cond, BitVec.toNat_sub, BitVec.toNat_add, BitVec.toNat_ofNat, toNat_one]
    split <;> omega

/-! ### How many frames a window can hold -/

theorem sorted_nodup {fs : List StoredFrame} (h : framesSorted fs = true) : (fs.map StoredFrame.sequence).Nodup := by
  induction fs with
  | nil => simp
  | cons x xs ih =>
    rw [List.map_cons, List.nodup_cons]
    have h2 : framesSorted xs = true := by rw [framesSorted_cons, Bool.and_eq_true] at h; exact h.2
    refine ⟨fun m => ?_, ih h2⟩
    obtain ⟨g, hg, e⟩ := List.mem_map.1 m
    have := sorted_below h g hg
    rw [e] at this
    exact Nat.lt_irrefl _ this

/-- Frames of distinct sequences in a window of n are at most n. -/
theorem length_window {fs : List StoredFrame} {next : Seq} {n : Nat} (h : framesSorted fs = true)
    (w : ∀ f ∈ fs, (f.sequence - next).toNat < n) : fs.length ≤ n := by
  have inj : Function.Injective fun x : Seq => (x - next).toNat := by
    intro x y e
    have := BitVec.eq_of_toNat_eq e
    have e2 : x - next + next = y - next + next := by rw [this]
    simpa using e2
  have nd : ((fs.map StoredFrame.sequence).map fun x : Seq => (x - next).toNat).Nodup := (sorted_nodup h).map inj
  have sub : ((fs.map StoredFrame.sequence).map fun x : Seq => (x - next).toNat) ⊆ List.range n := by
    intro m hm
    simp only [List.mem_map] at hm
    obtain ⟨_, ⟨f, hf, rfl⟩, rfl⟩ := hm
    exact List.mem_range.2 (w f hf)
  have := (nd.subperm sub).length_le
  simpa using this

/-! ### The budget (R87) -/

/-- What a bay takes of the budget. -/
def BayRecord.share (b : BayRecord) : Nat := if b.configured then b.alloc else 0

theorem budgetUsed_sum (t : Table BayRecord) : budgetUsed t = (t.cells.map BayRecord.share).sum := by
  unfold budgetUsed BayRecord.share
  rw [List.sum_eq_foldl]

theorem sum_set (l : List Nat) (i : Nat) (a : Nat) (h : i < l.length) : (l.set i a).sum + l[i] = l.sum + a := by
  induction l generalizing i with
  | nil => simp at h
  | cons x xs ih =>
    cases i with
    | zero => simp; omega
    | succ i => simp at h ⊢; have := ih i h; omega

/-- The budget after one bay has changed. -/
theorem budgetUsed_modify (t : Table BayRecord) (p : Pos) (f : BayRecord → BayRecord) :
    budgetUsed (t.modify p f) + (t.get p).share = budgetUsed t + (f (t.get p)).share := by
  have hp : p.val < (t.cells.map BayRecord.share).length := by rw [List.length_map, t.size]; exact p.isLt
  have := sum_set (t.cells.map BayRecord.share) p.val (f (t.get p)).share hp
  rw [budgetUsed_sum, budgetUsed_sum]
  unfold Table.modify Table.set
  rw [List.map_set]
  simpa [Table.get] using this

/-- Bays with the same shares take the same budget. -/
theorem budgetUsed_same {t u : Table BayRecord} (h : ∀ p, (u.get p).share = (t.get p).share) : budgetUsed u = budgetUsed t := by
  rw [budgetUsed_sum, budgetUsed_sum]
  congr 1
  apply List.ext_getElem
  · simp [t.size, u.size]
  · intro n h1 h2
    have hn : n < 24 := by rw [List.length_map, u.size] at h1; exact h1
    have := h ⟨n, hn⟩
    simpa [Table.get] using this

end Sys2Proof.Machine
end

