-- ==== Sys2Proof/Laws/Lawful.lean ====
section
/-! SUPPORT. What keeps the laws of the pool, the links and the latches (State.lawful): the relation of work that keeps them, and the shared operations of every block. -/

namespace Sys2Proof.Machine

/-! ### What the laws read of a bay and of a link -/

def BayRecord.law (b : BayRecord) : Bool × Nat × Bool := (b.configured, b.alloc, b.service == .outOfService)

def LinkRecord.law (l : LinkRecord) : LinkState × Bool × LinkOpKind × OpState × Bool × Bool :=
  (l.state, l.recovery, l.op.kind, l.op.state, l.timer.isSome, l.lastGood.isSome)

/-- What they read of a trip state. -/
def TripState.law (t : TripState) : Bool × BfState × Bool := (t.latched, t.bf, t.cause.isSome)

theorem BayRecord.law_ext {b c : BayRecord} (h : c.law = b.law) :
    c.configured = b.configured ∧ c.alloc = b.alloc ∧ (c.service ≠ .outOfService ↔ b.service ≠ .outOfService) := by
  have h1 : c.configured = b.configured := congrArg (fun x => x.1) h
  have h2 : c.alloc = b.alloc := congrArg (fun x => x.2.1) h
  have h3 : (c.service == .outOfService) = (b.service == .outOfService) := congrArg (fun x => x.2.2) h
  refine ⟨h1, h2, ?_⟩
  rw [Ne, Ne, ← beq_iff_eq (a := c.service), h3, beq_iff_eq]

theorem share_law {b c : BayRecord} (h : c.law = b.law) : c.share = b.share := by
  obtain ⟨h1, h2, _⟩ := BayRecord.law_ext h
  unfold BayRecord.share; rw [h1, h2]

theorem LinkRecord.law_ext {l k : LinkRecord} (h : k.law = l.law) :
    k.state = l.state ∧ k.recovery = l.recovery ∧ k.op.kind = l.op.kind ∧ k.op.state = l.op.state ∧
      k.timer.isSome = l.timer.isSome ∧ k.lastGood.isSome = l.lastGood.isSome :=
  ⟨congrArg (fun x => x.1) h, congrArg (fun x => x.2.1) h, congrArg (fun x => x.2.2.1) h, congrArg (fun x => x.2.2.2.1) h,
    congrArg (fun x => x.2.2.2.2.1) h, congrArg (fun x => x.2.2.2.2.2) h⟩

theorem linkLaw_congr {l k : LinkRecord} {q : LinkPool} (e : k.law = l.law) (h : linkLaw l q) : linkLaw k q := by
  obtain ⟨h1, h2, h3, h4, h5, h6⟩ := LinkRecord.law_ext e
  unfold linkLaw LinkRecord.mayHold LinkRecord.opens LinkRecord.busy at *
  rw [h1, h2, h3, h4, h5, h6]; exact h

theorem allocLaw_congr {b c : BayRecord} {l k : LinkRecord} (e : c.law = b.law) (f : k.state = l.state) (h : allocLaw b l) :
    allocLaw c k := by
  obtain ⟨h1, h2, _⟩ := BayRecord.law_ext e
  unfold allocLaw at *
  rw [h1, h2, f]; exact h

/-- The laws of a bay and its link, where the record, the link and the pool read the same. -/
theorem poolLaws_congr {n : Seq} {b c : BayRecord} {l k : LinkRecord} {q : LinkPool} (e : c.law = b.law) (f : k.law = l.law)
    (h : poolLaws n b l q) : poolLaws n c k q := by
  have ea := (BayRecord.law_ext e).2.1
  refine ⟨allocLaw_congr e (LinkRecord.law_ext f).1 h.1, ?_, ?_, linkLaw_congr f h.2.2.2⟩
  · rw [ea]; exact h.2.1
  · rw [ea]; exact h.2.2.1

theorem latchLaw_congr {v : Protection} {b c : BayRecord} {t u : TripState} (e : c.law = b.law) (f : u.law = t.law)
    (h : latchLaw v b t) : latchLaw v c u := by
  have h1 : u.latched = t.latched := congrArg (fun x => x.1) f
  have h2 : u.bf = t.bf := congrArg (fun x => x.2.1) f
  have h3 : u.cause.isSome = t.cause.isSome := congrArg (fun x => x.2.2) f
  unfold latchLaw at *
  rw [h1, h2, h3, (BayRecord.law_ext e).2.2]; exact h

/-! ### Work that keeps the laws of every bay -/

/-- The state t comes from s by work that leaves next_release, the protection state, D, the configuration and the OUT_OF_SERVICE bays
alone, and keeps the laws of each bay. -/
structure Lawly (s t : State) : Prop where
  next : t.next = s.next
  protection : t.controller.protection = s.controller.protection
  depth : t.depth = s.depth
  bay : ∀ p, (t.bay p).law = (s.bay p).law
  pool : ∀ p, poolLaws s.next (s.bay p) (s.link p) (s.linkPool p) → poolLaws s.next (t.bay p) (t.link p) (t.linkPool p)
  latch : ∀ p, latchLaw s.controller.protection (s.bay p) (s.tripState p) →
    latchLaw s.controller.protection (t.bay p) (t.tripState p)

theorem Lawly.refl (s : State) : Lawly s s := ⟨rfl, rfl, rfl, fun _ => rfl, fun _ => id, fun _ => id⟩

theorem Lawly.trans {s t u : State} (h : Lawly s t) (k : Lawly t u) : Lawly s u :=
  ⟨k.next.trans h.next, k.protection.trans h.protection, k.depth.trans h.depth, fun p => (k.bay p).trans (h.bay p),
    fun p x => by have := k.pool p; rw [h.next] at this; exact this (h.pool p x),
    fun p x => by have := k.latch p; rw [h.protection] at this; exact this (h.latch p x)⟩

/-- The later work first. -/
theorem Lawly.after {s t u : State} (k : Lawly t u) (h : Lawly s t) : Lawly s u := h.trans k

theorem Lawly.ite {s t u : State} {c : Prop} [Decidable c] (h : Lawly s t) (k : Lawly s u) : Lawly s (if c then t else u) := by
  split <;> assumption

theorem Lawly.foldl {α : Type} {f : State → α → State} (step : ∀ s a, Lawly s (f s a)) (s : State) (xs : List α) :
    Lawly s (xs.foldl f s) :=
  foldl_keeps (P := Lawly s) (fun t a h => h.trans (step t a)) xs s (Lawly.refl s)

/-- A fold of work that keeps the laws while the protection state and the OUT_OF_SERVICE bays are as they were. -/
theorem Lawly.foldlIn {α : Type} {f : State → α → State} {s : State} (step : ∀ t a, Lawly s t → Lawly t (f t a)) (xs : List α) :
    Lawly s (xs.foldl f s) :=
  foldl_keeps (P := Lawly s) (fun t a h => h.trans (step t a h)) xs s (Lawly.refl s)

/-- What a change must leave alone to leave the laws alone. -/
def State.ground (s : State) : Seq × Protection × Station × Table BayRecord × Table LinkRecord × Table LinkPool × Table TripState :=
  (s.releaseUnit.next, s.controller.protection, s.controller.station, s.bays, s.links, s.pool, s.trip.bays)

theorem Lawly.same {s t : State} (h : t.ground = s.ground) : Lawly s t := by
  have hb : t.bays = s.bays := congrArg (fun x => x.2.2.2.1) h
  have hl : t.links = s.links := congrArg (fun x => x.2.2.2.2.1) h
  have hq : t.pool = s.pool := congrArg (fun x => x.2.2.2.2.2.1) h
  have hu : t.trip.bays = s.trip.bays := congrArg (fun x => x.2.2.2.2.2.2) h
  refine ⟨congrArg (fun x => x.1) h, congrArg (fun x => x.2.1) h, congrArg (fun x => Station.depth x.2.2.1) h, fun p => ?_,
    fun p => ?_, fun p => ?_⟩
  · unfold State.bay; rw [hb]
  · unfold State.bay State.link State.linkPool; rw [hb, hl, hq]; exact id
  · unfold State.bay State.tripState; rw [hb, hu]; exact id

theorem Lawly.budget {s t : State} (h : Lawly s t) : budgetUsed t.bays = budgetUsed s.bays :=
  budgetUsed_same fun p => share_law (h.bay p)

theorem Lawly.lawful {s t : State} (h : Lawly s t) (k : s.lawful) : t.lawful :=
  ⟨by rw [h.depth]; exact k.1, by rw [h.budget]; exact k.2.1,
    fun p => ⟨by rw [h.next]; exact h.pool p (k.2.2 p).1, by rw [h.protection]; exact h.latch p (k.2.2 p).2⟩⟩

/-! ### One cell -/

theorem lawly_modBay (s : State) (p : Pos) {f : BayRecord → BayRecord} (h : (f (s.bay p)).law = (s.bay p).law) :
    Lawly s (s.modBay p f) := by
  have hb : ∀ q, ((s.modBay p f).bay q).law = (s.bay q).law := fun q => by
    show ((s.bays.modify p f).get q).law = _
    rw [Table.get_modify]; split
    · rename_i e; subst e; exact h
    · rfl
  exact ⟨rfl, rfl, rfl, hb, fun q => poolLaws_congr (hb q) rfl, fun q => latchLaw_congr (hb q) rfl⟩

theorem lawly_modLink (s : State) (p : Pos) {f : LinkRecord → LinkRecord}
    (h : poolLaws s.next (s.bay p) (s.link p) (s.linkPool p) → poolLaws s.next (s.bay p) (f (s.link p)) (s.linkPool p)) :
    Lawly s (s.modLink p f) :=
  ⟨rfl, rfl, rfl, fun _ => rfl, fun q => by
    show _ → poolLaws _ _ ((s.links.modify p f).get q) _
    rw [Table.get_modify]; split
    · rename_i e; subst e; exact h
    · exact id, fun _ => id⟩

/-- A link record changed in what the laws do not read. -/
theorem lawly_modLinkSame (s : State) (p : Pos) {f : LinkRecord → LinkRecord} (h : (f (s.link p)).law = (s.link p).law) :
    Lawly s (s.modLink p f) := lawly_modLink s p (poolLaws_congr rfl h)

theorem lawly_modPool (s : State) (p : Pos) {f : LinkPool → LinkPool}
    (h : poolLaws s.next (s.bay p) (s.link p) (s.linkPool p) → poolLaws s.next (s.bay p) (s.link p) (f (s.linkPool p))) :
    Lawly s (s.modPool p f) :=
  ⟨rfl, rfl, rfl, fun _ => rfl, fun q => by
    show _ → poolLaws _ _ _ ((s.pool.modify p f).get q)
    rw [Table.get_modify]; split
    · rename_i e; subst e; exact h
    · exact id, fun _ => id⟩

theorem lawly_modTrip (s : State) (p : Pos) {f : TripState → TripState}
    (h : latchLaw s.controller.protection (s.bay p) (s.tripState p) →
      latchLaw s.controller.protection (s.bay p) (f (s.tripState p))) : Lawly s (s.modTrip p f) :=
  ⟨rfl, rfl, rfl, fun _ => rfl, fun _ => id, fun q => by
    show _ → latchLaw _ _ ((s.trip.bays.modify p f).get q)
    rw [Table.get_modify]; split
    · rename_i e; subst e; exact h
    · exact id⟩

theorem lawly_modTripSame (s : State) (p : Pos) {f : TripState → TripState} (h : (f (s.tripState p)).law = (s.tripState p).law) :
    Lawly s (s.modTrip p f) := lawly_modTrip s p (latchLaw_congr rfl h)

/-! ### Notices, errors -/

theorem lawly_post (s : State) (r : Report) : Lawly s (s.post r) := .same rfl
theorem lawly_postAll (s : State) (rs : List Report) : Lawly s (s.postAll rs) := Lawly.foldl lawly_post s rs

theorem lawly_countError (s : State) (p : Pos) (k : ErrorKind) : Lawly s (s.countError p k) := by
  unfold State.countError
  split
  · exact lawly_modLinkSame s p rfl
  · exact (lawly_modLinkSame s p rfl).trans (lawly_postAll ..)

/-! ### ZoneReplica.lean, Evaluator.lean, ZoneSupervision.lean -/

theorem lawly_reportZone (s : State) (z : EffZone) : Lawly s (s.reportZone z) := by
  unfold State.reportZone
  exact .ite (.refl _) (.same rfl)

theorem lawly_reportCheck (s : State) (c : CheckZone) : Lawly s (s.reportCheck c) := by
  unfold State.reportCheck
  exact .ite (.refl _) (.same rfl)

theorem lawly_settlePicture (s : State) (q : Seq) : Lawly s (s.settlePicture q) :=
  .after (lawly_reportCheck ..) (.after (Lawly.foldl lawly_reportZone _ _) (.same rfl))

theorem lawly_requestCts (s : State) (n : BusZone) (ps : List (Phase × Nat)) : Lawly s (s.requestCts n ps) := by
  unfold State.requestCts
  split
  · exact .refl _
  · exact .after (lawly_reportZone ..) (.same rfl)

theorem lawly_requestCheckCts (s : State) (ps : List (Phase × Nat)) : Lawly s (s.requestCheckCts ps) := by
  unfold State.requestCheckCts
  split
  · exact .refl _
  · exact .after (lawly_reportCheck ..) (.same rfl)

theorem lawly_superviseCts (s : State) (g : Settings) (st : ZoneState) (b : PerPhase Bool) (i : PerPhase Nat) :
    Lawly s (s.superviseCts g st b i) :=
  Lawly.trans (t := s.putZone { st with cts := st.cts.step g b }) (.same rfl) (.ite (.refl _) (lawly_requestCts ..))

theorem lawly_superviseZone (g : Settings) (s : State) (h : ZoneHand) : Lawly s (s.superviseZone g h) := by
  unfold State.superviseZone
  split
  · exact .refl _
  · exact lawly_superviseCts ..

theorem lawly_superviseCheckCts (s : State) (g : Settings) (c : CheckState) (b : PerPhase Bool) (i : PerPhase Nat) :
    Lawly s (s.superviseCheckCts g c b i) :=
  Lawly.trans (t := { s with check := some { c with cts := c.cts.step g b } }) (.same rfl) (.ite (.refl _) (lawly_requestCheckCts ..))

theorem lawly_superviseCheck (g : Settings) (h : Option CheckHand) (s : State) : Lawly s (s.superviseCheck g h) := by
  unfold State.superviseCheck
  split
  · exact lawly_superviseCheckCts ..
  · exact .refl _

theorem lawly_supervise (s : State) (g : Settings) (hs : List ZoneHand) (c : Option CheckHand) : Lawly s (s.supervise g hs c) :=
  (Lawly.foldl (lawly_superviseZone g) s hs).trans (lawly_superviseCheck ..)

theorem lawly_clearCtsOf (s : State) (x : BusZone) : Lawly s (s.clearCtsOf x) := by
  unfold State.clearCtsOf
  split
  · exact .refl _
  · exact .same rfl

theorem lawly_ctSupervisionZone (s : State) (z : BusZone) (i : PerPhase Nat) : Lawly s (s.ctSupervisionZone z i) := by
  unfold State.ctSupervisionZone
  split
  · exact .refl _
  · exact .ite (lawly_superviseCts ..) (.refl _)

theorem lawly_ctSupervisionCheck (s : State) (i : PerPhase Nat) : Lawly s (s.ctSupervisionCheck i) := by
  unfold State.ctSupervisionCheck
  split
  · exact .refl _
  · exact .ite (lawly_superviseCheckCts ..) (.refl _)

/-! ### TripUnit.lean: orders, timers, acknowledgement -/

theorem law_land (g : Settings) (t : TripState) : (t.land g).law = t.law := rfl

theorem law_cancelled (g : Settings) (w : OrderKind → Bool) (t : TripState) : (t.cancelled g w).law = t.law := by
  unfold TripState.cancelled
  simp only
  split <;> rfl

theorem lawly_cancelOrders (s : State) (p : Pos) (w : OrderKind → Bool) (c : CancelCause) : Lawly s (s.cancelOrders p w c) :=
  (lawly_modTripSame s p (law_cancelled ..)).trans (lawly_postAll ..)

theorem lawly_completeOrder (s : State) (p : Pos) (q : Seq) (e : Nat) : Lawly s (s.completeOrder p q e) := by
  unfold State.completeOrder
  split
  · exact .refl _
  · exact .ite ((lawly_modTripSame s p rfl).trans (lawly_post ..)) (.refl _)

theorem lawly_tickOrder (s : State) (p : Pos) : Lawly s (s.tickOrder p) := by
  unfold State.tickOrder
  split
  · exact .refl _
  · exact .ite ((lawly_modTripSame s p rfl).trans (lawly_post ..)) (lawly_modTripSame s p rfl)

theorem lawly_tickLatch (s : State) (p : Pos) (k : LatchKind) : Lawly s (s.tickLatch p k) := by
  refine (lawly_modTripSame s p ?_).trans (lawly_postAll ..)
  cases k <;> simp [TripState.law, TripState.latched, TripState.withLatch, TripState.latch]

theorem lawly_tickBay (s : State) (p : Pos) : Lawly s (s.tickBay p) :=
  (lawly_tickLatch ..).trans ((lawly_tickLatch ..).trans (lawly_tickOrder ..))

theorem lawly_tickTrips (s : State) : Lawly s s.tickTrips := Lawly.foldl lawly_tickBay _ _

theorem lawly_acknowledge (q : Seq) (h : Table BayHand) (s : State) (p : Pos) : Lawly s (s.acknowledge q h p) :=
  .ite ((lawly_modTripSame s p (by simp [TripState.law, TripState.latched])).trans (lawly_completeOrder ..)) (.refl _)

theorem lawly_acknowledgeAll (s : State) (q : Seq) (h : Table BayHand) : Lawly s (s.acknowledgeAll q h) :=
  Lawly.foldl (lawly_acknowledge q h) _ _

/-! ### TripUnit.lean: latches and timing, on bays that are not OUT_OF_SERVICE while protection is RUNNING (R139) -/

/-- The states in which the bay may be latched. -/
def State.mayLatch (s : State) (p : Pos) : Prop := s.controller.protection = .running ∧ (s.bay p).service ≠ .outOfService

theorem Lawly.mayLatch {s t : State} (h : Lawly s t) {p : Pos} (k : s.mayLatch p) : t.mayLatch p :=
  ⟨h.protection.trans k.1, (BayRecord.law_ext (h.bay p)).2.2.2 k.2⟩

theorem mayLatch_connected {s : State} {zs : List BusZone} {p : Pos} (r : s.controller.protection = .running)
    (h : (s.bay p).connectedTo zs = true) : s.mayLatch p := by
  unfold BayRecord.connectedTo BayRecord.inService at h
  simp only [Bool.and_eq_true, beq_iff_eq] at h
  exact ⟨r, by rw [h.1]; decide⟩

theorem lawly_setLatch (s : State) (p : Pos) (k : LatchKind) (q : Seq) (h : s.mayLatch p) : Lawly s (s.setLatch p k q) := by
  unfold State.setLatch
  split
  · exact .refl _
  · refine (lawly_modTrip s p fun l => ?_).trans (lawly_cancelOrders ..)
    exact ⟨fun _ => h, fun b => by cases k <;> exact l.2 b⟩

theorem lawly_setTrips (s : State) (ps : List Pos) (q : Seq) (h : ∀ p ∈ ps, s.mayLatch p) : Lawly s (s.setTrips ps q) := by
  induction ps generalizing s with
  | nil => exact .refl _
  | cons p ps ih =>
    have h1 := lawly_setLatch s p .trip q (h p List.mem_cons_self)
    exact h1.trans (ih _ fun x hx => h1.mayLatch (h x (List.mem_cons_of_mem _ hx)))

theorem lawly_startTiming (s : State) (p : Pos) (g : Settings) (c : StartCause) (h : s.mayLatch p) :
    Lawly s (s.modTrip p (TripState.startTiming g c)) := by
  refine lawly_modTrip s p fun l => ?_
  unfold TripState.startTiming
  split
  · exact ⟨fun _ => h, fun _ => rfl⟩
  · exact l

theorem lawly_startAll (s : State) (ps : List Pos) (c : StartCause) (h : ∀ p ∈ ps, s.mayLatch p) : Lawly s (s.startAll ps c) := by
  induction ps generalizing s with
  | nil => exact .refl _
  | cons p ps ih =>
    have h1 := lawly_startTiming s p s.active c (h p List.mem_cons_self)
    exact h1.trans (ih _ fun x hx => h1.mayLatch (h x (List.mem_cons_of_mem _ hx)))

theorem lawly_record (s : State) (make : Nat → TripRecord) (bf : Bool) (q : Seq) (r : Option Nat → Report) :
    Lawly s (s.record make bf q r) := by
  unfold State.record
  refine .after (lawly_postAll ..) (.same ?_)
  unfold TripUnit.offer
  split <;> rfl

theorem lawly_decideZone (s : State) (q : Seq) (z : EffZone) (st : ZoneState) (r : s.controller.protection = .running) :
    Lawly s (s.decideZone q z st) := by
  have hm : ∀ p ∈ s.unlatched (connectedBays s.bays z.zones), s.mayLatch p := fun p hp => by
    have h := mem_unlatched hp
    unfold connectedBays Table.where at h
    exact mayLatch_connected r (List.mem_filter.1 h).2
  have h1 : Lawly s ((s.putZone { st with flag := some (connectedBays s.bays z.zones) }).setTrips
      (s.unlatched (connectedBays s.bays z.zones)) q) :=
    Lawly.trans (t := s.putZone { st with flag := some (connectedBays s.bays z.zones) }) (.same rfl)
      (lawly_setTrips _ _ _ fun p hp => hm p hp)
  unfold State.decideZone
  simp only
  split
  · exact h1
  · refine .after (lawly_startAll _ _ _ fun p hp => ?_) (h1.trans (lawly_record ..))
    exact (h1.trans (lawly_record ..)).mayLatch (hm p hp)

theorem lawly_considerZone (q : Seq) (b : Bool) (s : State) (z : EffZone) (r : s.controller.protection = .running) :
    Lawly s (s.considerZone q b z) := by
  unfold State.considerZone
  split
  · exact .refl _
  · exact .ite (lawly_decideZone _ _ _ _ r) (.refl _)

theorem lawly_decideAll (s : State) (q : Seq) (r : s.controller.protection = .running) : Lawly s (s.decideAll q) := by
  unfold State.decideAll
  split
  · exact .refl _
  · exact Lawly.foldlIn (fun t z h => lawly_considerZone _ _ t z (h.protection.trans r)) _

theorem lawly_initiate (s : State) (p : Pos) (q : Seq) (r : s.controller.protection = .running) : Lawly s (s.initiate p q) := by
  unfold State.initiate
  split
  · rename_i h
    simp only [Bool.and_eq_true, BayRecord.inService, beq_iff_eq] at h
    have hm : s.mayLatch p := ⟨r, by rw [h.1]; decide⟩
    have h1 := lawly_setLatch s p .trip q hm
    exact (h1.trans (lawly_startTiming _ p s.active .bfi (h1.mayLatch hm))).trans (lawly_postAll ..)
  · exact .refl _

theorem lawly_initiateAll (s : State) (q : Seq) (h : Table BayHand) (r : s.controller.protection = .running) :
    Lawly s (s.initiateAll q h) :=
  Lawly.foldlIn (fun t p k => lawly_initiate t p q (k.protection.trans r)) _

theorem lawly_bfIdle (s : State) (p : Pos) : Lawly s (s.modTrip p TripState.bfIdle) :=
  lawly_modTrip s p fun l => ⟨fun h => l.1 (by rcases h with h | h; exact .inl h; exact absurd rfl h), fun h => absurd rfl h⟩

theorem lawly_failBreaker (s : State) (p : Pos) (q : Seq) (rs : List FailureReason) (i : Option (PerPhase Int))
    (ht : (s.tripState p).timing = true) (hm : s.mayLatch p) : Lawly s (s.failBreaker p q rs i) := by
  have hb : (s.tripState p).bf ≠ .idle := by
    unfold TripState.timing at ht
    rw [beq_iff_eq] at ht; rw [ht]; decide
  have hc : ∀ x ∈ s.unlatched (connectedToAny s.bays (s.backTripZones p)), s.mayLatch x := fun x hx => by
    have h := mem_unlatched hx
    unfold connectedToAny Table.where at h
    have h2 := (List.mem_filter.1 h).2
    rw [List.any_eq_true] at h2
    obtain ⟨z, _, hz⟩ := h2
    exact mayLatch_connected hm.1 hz
  have h1 : Lawly s (s.modTrip p TripState.bfFails) := lawly_modTrip s p fun l => ⟨fun _ => hm, fun _ => l.2 hb⟩
  have h2 := h1.trans (lawly_setTrips _ (s.unlatched (connectedToAny s.bays (s.backTripZones p))) q fun x hx => h1.mayLatch (hc x hx))
  have h3 := Lawly.ite (c := (s.bay p).kind = .feeder) (h2.trans (lawly_setLatch _ p .transferTrip q (h2.mayLatch hm))) h2
  have h4 := h3.trans (lawly_startAll _ (s.unlatched (connectedToAny s.bays (s.backTripZones p))) .backTrip
    fun x hx => h3.mayLatch (hc x hx))
  unfold State.failBreaker
  simp only
  split
  · exact h4.trans (lawly_post ..)
  · exact h4.trans (lawly_record ..)

theorem lawly_expire (s : State) (p : Pos) (q : Seq) (i : Option (PerPhase Int)) (ht : (s.tripState p).timing = true)
    (hm : s.mayLatch p) : Lawly s (s.expire p q i) := .ite (lawly_bfIdle ..) (lawly_failBreaker _ _ _ _ _ ht hm)

/-- A TIMING bay may be latched. -/
theorem timing_mayLatch {s : State} (h : s.lawful) {p : Pos} (ht : (s.tripState p).timing = true) : s.mayLatch p := by
  refine (h.2.2 p).2.1 (.inr ?_)
  unfold TripState.timing at ht
  rw [beq_iff_eq] at ht; rw [ht]; decide

theorem lawful_advanceTiming (q : Seq) (hs : Table BayHand) (s : State) (p : Pos) (h : s.lawful) : (s.advanceTiming q hs p).lawful := by
  unfold State.advanceTiming
  split
  · rename_i ht
    unfold State.advanceBay
    exact (Lawly.ite (lawly_bfIdle ..) (.ite (lawly_expire _ _ _ _ ht (timing_mayLatch h ht)) (lawly_modTripSame s p rfl))).lawful h
  · exact h

theorem lawful_tripWork (s : State) (q : Seq) (hs : Table BayHand) (ts : List Pos) (r : s.controller.protection = .running)
    (h : s.lawful) : (s.tripWork q hs ts).lawful := by
  have h1 := lawly_decideAll s q r
  have h2 := h1.trans (lawly_initiateAll _ q hs (h1.protection.trans r))
  exact foldl_keeps (P := State.lawful) (fun t p k => lawful_advanceTiming q hs t p k) ts _ (h2.lawful h)

/-! ### TripUnit.lean: clearing -/

theorem latchLaw_resetTrip {v : Protection} {b : BayRecord} {t : TripState} (h : latchLaw v b t) : latchLaw v b t.resetTrip := by
  unfold latchLaw TripState.resetTrip TripState.forgive at *
  split
  · simp [TripState.bfIdle, TripState.latched, Latch.cleared]
  · refine ⟨fun k => h.1 (.inr ?_), h.2⟩
    rcases k with k | k
    · simp [TripState.latched, Latch.cleared] at k
    · exact k

theorem lawly_resetBay (s : State) (p : Pos) : Lawly s (s.resetBay p) :=
  Lawly.trans (t := s.modTrip p TripState.resetTrip) (lawly_modTrip s p latchLaw_resetTrip) (.same rfl)

theorem lawly_resetIfPasses (s : State) (p : Pos) : Lawly s (s.resetIfPasses p) := .ite (lawly_resetBay ..) (.refl _)

theorem lawly_give (s : State) (p : Pos) (g : Settings) (o : Order) : Lawly s (s.modTrip p (TripState.give g o)) := by
  refine lawly_modTripSame s p ?_
  unfold TripState.give
  split <;> rfl

end Sys2Proof.Machine
end

