-- ==== Sys2Proof/Laws/LawfulLinks.lean ====
section
/-! SUPPORT. The Bay Links and the Frame Pool keep the laws: what may happen to one link and its pool, and the operations that make it happen. -/

namespace Sys2Proof.Machine

/-! ### One link record -/

theorem bringing_not_active {l : LinkRecord} (h : l.state.bringingUp = true) : l.state ≠ .active := by
  intro e; rw [e] at h; exact absurd h (by decide)

theorem active_not_bringing {l : LinkRecord} (h : l.state = .active) : l.state.bringingUp = false := by rw [h]; rfl

/-- A link that is not DOWN is the link of a configured bay. -/
theorem poolLaws_configured {n : Seq} {b : BayRecord} {l : LinkRecord} {q : LinkPool} (h : poolLaws n b l q) (d : l.state ≠ .down) :
    b.configured = true := by
  by_contra c
  have := h.1
  unfold allocLaw at this
  rw [if_neg c] at this
  exact d this.2

/-- ALLOC of a configured bay. -/
theorem poolLaws_alloc {n : Seq} {b : BayRecord} {l : LinkRecord} {q : LinkPool} (h : poolLaws n b l q) (c : b.configured = true) :
    3 ≤ b.alloc ∧ b.alloc ≤ 64 := by
  have := h.1
  unfold allocLaw at this
  rwa [if_pos c] at this

/-- A link record replaced: the link's own law, and DOWN where the bay is not configured. -/
theorem poolLaws_link {n : Seq} {b : BayRecord} {l k : LinkRecord} {q : LinkPool} (h : poolLaws n b l q)
    (d : b.configured = true ∨ k.state = .down) (m : linkLaw k q) : poolLaws n b k q := by
  refine ⟨?_, h.2.1, h.2.2.1, m⟩
  have := h.1
  unfold allocLaw at *
  split
  · rename_i c; rwa [if_pos c] at this
  · rename_i c; rw [if_neg c] at this; exact ⟨this.1, d.resolve_left c⟩

/-- From HUNT, LOCK or MEASURE to another of the three, the operation and the timer as they were. -/
theorem poolLaws_bring {n : Seq} {b : BayRecord} {l k : LinkRecord} {q : LinkPool} (h : poolLaws n b l q)
    (hl : l.state.bringingUp = true) (hk : k.state.bringingUp = true) (r : k.recovery = l.recovery) (o : k.op = l.op)
    (t : k.timer.isSome = l.timer.isSome) : poolLaws n b k q := by
  have c := poolLaws_configured h (fun e => by rw [e] at hl; exact absurd hl (by decide))
  refine poolLaws_link h (.inl c) ?_
  have m := h.2.2.2
  have a1 : (l.state == .active) = false := by rw [beq_eq_false_iff_ne]; exact bringing_not_active hl
  have a2 : (k.state == .active) = false := by rw [beq_eq_false_iff_ne]; exact bringing_not_active hk
  unfold linkLaw LinkRecord.mayHold LinkRecord.opens LinkRecord.busy at *
  rw [hl, a1] at m
  rw [hk, a2, r, o, t]
  exact ⟨m.1, m.2.1, m.2.2.1, m.2.2.2.1, fun e => absurd e (bringing_not_active hk)⟩

/-- ACTIVE before and after, with a last good sequence. -/
theorem poolLaws_active {n : Seq} {b : BayRecord} {l k : LinkRecord} {q : LinkPool} (h : poolLaws n b l q)
    (hl : l.state = .active) (hk : k.state = .active) (r : k.recovery = l.recovery) (o : k.op = l.op)
    (t : k.timer.isSome = l.timer.isSome) (g : k.lastGood.isSome = true) : poolLaws n b k q := by
  have c := poolLaws_configured h (fun e => by rw [e] at hl; exact absurd hl (by decide))
  refine poolLaws_link h (.inl c) ?_
  have m := h.2.2.2
  unfold linkLaw LinkRecord.mayHold LinkRecord.opens LinkRecord.busy at *
  rw [hl] at m
  rw [hk, r, o, t]
  exact ⟨m.1, m.2.1, m.2.2.1, m.2.2.2.1, fun _ => g⟩

/-- Sync loss: from ACTIVE to HUNT as a recovery (R74). -/
theorem poolLaws_lost {n : Seq} {b : BayRecord} {l k : LinkRecord} {q : LinkPool} (h : poolLaws n b l q)
    (hl : l.state = .active) (hk : k.state = .hunt) (r : k.recovery = true) (o : k.op = l.op)
    (t : k.timer.isSome = l.timer.isSome) : poolLaws n b k q := by
  have c := poolLaws_configured h (fun e => by rw [e] at hl; exact absurd hl (by decide))
  refine poolLaws_link h (.inl c) ?_
  have m := h.2.2.2
  unfold linkLaw LinkRecord.mayHold LinkRecord.opens LinkRecord.busy at *
  rw [hl] at m
  rw [hk, r, o, t]
  simp [LinkState.bringingUp] at m ⊢
  exact ⟨m.1, m.2.1, m.2.2.1⟩

/-- No OPEN operation is BUSY, and no shrink, on a link whose operation is not BUSY. -/
theorem poolLaws_idle {n : Seq} {b : BayRecord} {l : LinkRecord} {q : LinkPool} (h : poolLaws n b l q) (i : l.busy = false) :
    q.stalled = false ∧ l.timer = none ∧ (l.state.bringingUp = true → l.recovery = true) := by
  have m := h.2.2.2
  unfold linkLaw LinkRecord.opens at m
  rw [i] at m
  simp only [Bool.false_and, Bool.false_eq_true, false_and, false_iff] at m
  refine ⟨by simpa using m.2.1, ?_, fun e => ?_⟩
  · have := m.2.2.2.1; simpa using this
  · have := m.2.2.1; simp only [not_and] at this; simpa using this e

/-- A bring-up under an operation: its operation is BUSY, and the link holds no frame and is not stalled. -/
theorem poolLaws_opening {n : Seq} {b : BayRecord} {l : LinkRecord} {q : LinkPool} (h : poolLaws n b l q)
    (hl : l.state.bringingUp = true) (r : l.recovery = false) : l.opens = true ∧ q.frames = [] ∧ q.stalled = false := by
  have m := h.2.2.2
  have a1 : (l.state == .active) = false := by rw [beq_eq_false_iff_ne]; exact bringing_not_active hl
  have f := m.1 (by unfold LinkRecord.mayHold; rw [a1, r]; rfl)
  exact ⟨m.2.2.1.2 ⟨hl, r⟩, f⟩

/-- A link with no operation BUSY, no timer, no frames and no stall, in a state that is no bring-up and not ACTIVE. -/
theorem linkLaw_quiet {k : LinkRecord} {q : LinkPool} (hs : k.state = .down ∨ k.state = .dormant) (o : k.busy = false)
    (t : k.timer = none) (f : q.frames = []) (w : q.stalled = false) : linkLaw k q := by
  unfold linkLaw LinkRecord.opens
  rw [o, t, w]
  refine ⟨fun _ => ⟨f, rfl⟩, by simp, ?_, by simp, fun e => ?_⟩
  · rcases hs with e | e <;> rw [e] <;> simp [LinkState.bringingUp]
  · rcases hs with d | d <;> rw [d] at e <;> exact absurd e (by decide)

/-- A bring-up under an operation has failed (R72). -/
theorem poolLaws_failed {n : Seq} {b : BayRecord} {l k : LinkRecord} {q : LinkPool} (h : poolLaws n b l q)
    (hl : l.state.bringingUp = true) (r : l.recovery = false) (hk : k.state = .down) (o : k.busy = false) (t : k.timer = none) :
    poolLaws n b k q := by
  obtain ⟨_, f, w⟩ := poolLaws_opening h hl r
  exact poolLaws_link h (.inr hk) (linkLaw_quiet (.inl hk) o t f w)

/-- The link becomes ACTIVE: under an operation that ends, or from a recovery, which has none (R71, R75). -/
theorem poolLaws_activated {n : Seq} {b : BayRecord} {l k : LinkRecord} {q : LinkPool} (h : poolLaws n b l q)
    (hl : l.state.bringingUp = true) (hk : k.state = .active) (t : k.timer = none) (g : k.lastGood.isSome = true)
    (o : if l.recovery = true then k.op = l.op else k.busy = false) : poolLaws n b k q := by
  have c := poolLaws_configured h (fun e => by rw [e] at hl; exact absurd hl (by decide))
  refine poolLaws_link h (.inl c) ?_
  have m := h.2.2.2
  have hb : k.state.bringingUp = false := active_not_bringing hk
  have key : (k.busy = true ∧ k.op.kind = .reallocate ↔ q.stalled = true) ∧ k.opens = false := by
    split at o
    · rename_i e
      refine ⟨by unfold LinkRecord.busy; rw [o]; exact m.2.1, ?_⟩
      have hx : ¬ l.opens = true := fun x => by have := (m.2.2.1.1 x).2; rw [e] at this; exact absurd this (by decide)
      unfold LinkRecord.opens LinkRecord.busy at *
      rw [o]; simpa using hx
    · rename_i e
      have e' : l.recovery = false := by simpa using e
      obtain ⟨_, _, w⟩ := poolLaws_opening h hl e'
      refine ⟨by rw [o, w]; simp, by unfold LinkRecord.opens; rw [o]; rfl⟩
  refine ⟨fun x => ?_, key.1, ?_, by rw [t]; simp, fun _ => g⟩
  · unfold LinkRecord.mayHold at x; rw [hk] at x; exact absurd x (by simp)
  · rw [key.2, hb]; simp

/-- An OPEN bring-up starts on a DOWN or DORMANT link (R66, R80). -/
theorem poolLaws_opened {n : Seq} {b : BayRecord} {l : LinkRecord} {q : LinkPool} (h : poolLaws n b l q) (e : Nat) (w : Bool)
    (c : b.configured = true) (hl : l.state.transmits = false) : poolLaws n b (l.opening e w) q := by
  refine poolLaws_link h (.inl c) ?_
  have m := h.2.2.2
  have nh : l.mayHold = false := by
    unfold LinkRecord.mayHold
    cases hs : l.state <;> rw [hs] at hl <;> simp [LinkState.transmits, LinkState.bringingUp] at hl ⊢
  have f := m.1 nh
  unfold linkLaw LinkRecord.opens LinkRecord.busy LinkRecord.opening
  rw [f.2]
  refine ⟨fun _ => ⟨f.1, rfl⟩, by simp, by simp [LinkState.bringingUp], by simp, fun x => by simp at x⟩

/-! ### The pool of one link -/

/-- An allocation applied: the frames it holds lie in the new window (R92, R93, R95, R96). -/
theorem framesLaw_applied {n : Seq} {a : Nat} {q : LinkPool} (h : 3 ≤ a) (k : a ≤ 64) (s : framesSorted q.frames = true)
    (w : ∀ f ∈ q.frames, (f.sequence - n).toNat < a) : framesLaw n a (q.applied n a) :=
  ⟨length_window s w, s, fun f hf => (inWindow (by omega) k).2 (w f hf)⟩

theorem grantLaw_applied (n : Seq) (a : Nat) (q : LinkPool) : grantLaw n a (q.applied n a) := by
  unfold grantLaw LinkPool.applied; simp

/-- The window a link's frames lie in: that of its allocation, or while it is stalled that of its held span. -/
theorem poolLaws_window {n : Seq} {b : BayRecord} {l : LinkRecord} {q : LinkPool} (h : poolLaws n b l q) (c : b.configured = true) :
    ∃ w : Nat, 3 ≤ w ∧ w ≤ 64 ∧ q.grant = grantFor n w ∧ b.alloc ≤ w ∧ (q.stalled = false → w = b.alloc) ∧
      (q.stalled = true → b.alloc < w ∧ w ≤ q.span ∧ q.span ≤ 64) := by
  have a := poolLaws_alloc h c
  have g := h.2.1
  unfold grantLaw at g
  split at g
  · rename_i e
    obtain ⟨w, hw⟩ : ∃ w : Nat, q.heldSpan n = w := ⟨(q.heldSpan n).toNat, by omega⟩
    rw [hw] at g
    refine ⟨w, by omega, by omega, (heldSpan_iff (by omega) (by omega)).1 hw, by omega, fun x => ?_, fun _ => ⟨by omega, by omega, g.2.2⟩⟩
    rw [e] at x; exact absurd x (by decide)
  · rename_i e
    exact ⟨b.alloc, a.1, a.2, g.2, Nat.le_refl _, fun _ => rfl, fun x => absurd x e⟩

/-- A frame that no test refuses is stored (R73, R89). -/
theorem poolLaws_store {n : Seq} {b : BayRecord} {l : LinkRecord} {q : LinkPool} (h : poolLaws n b l q) (hl : l.state = .active)
    (f : StoredFrame) (h1 : behind f.sequence n = false) (h2 : ahead f.sequence q.grant = false)
    (h3 : (q.stalled && b.alloc ≤ q.frames.length) = false) : poolLaws n b l { q with frames := insertFrame f q.frames } := by
  have c := poolLaws_configured h (fun e => by rw [e] at hl; exact absurd hl (by decide))
  obtain ⟨w, w3, w64, wg, _, wn, _⟩ := poolLaws_window h c
  have hf := h.2.2.1
  have hs := framesSorted_insert f q.frames hf.2.1
  have mem : ∀ g ∈ insertFrame f q.frames, g = f ∨ g ∈ q.frames := by
    intro g
    generalize q.frames = fs
    induction fs with
    | nil => intro hg; exact .inl (by simpa [insertFrame] using hg)
    | cons x xs ih =>
      simp only [insertFrame]
      split
      · intro hg; rcases List.mem_cons.1 hg with e | e
        · exact .inl e
        · exact .inr e
      · split
        · exact fun hg => .inr hg
        · intro hg; rcases List.mem_cons.1 hg with e | e
          · exact .inr (by rw [e]; exact List.mem_cons_self)
          · exact (ih e).imp id (List.mem_cons_of_mem _)
  have all : ∀ g ∈ insertFrame f q.frames, behind g.sequence n = false ∧ ahead g.sequence q.grant = false := by
    intro g hg
    rcases mem g hg with e | e
    · rw [e]; exact ⟨h1, h2⟩
    · exact hf.2.2 g e
  refine ⟨h.1, h.2.1, ⟨?_, hs, all⟩, ?_⟩
  · show (insertFrame f q.frames).length ≤ b.alloc
    cases hst : q.stalled
    · rw [← wn hst]
      exact length_window (next := n) hs fun g hg => (inWindow (by omega) w64).1 (by rw [← wg]; exact all g hg)
    · rw [hst] at h3
      have : q.frames.length < b.alloc := by simpa using h3
      have len : (insertFrame f q.frames).length ≤ q.frames.length + 1 := by
        generalize q.frames = fs
        induction fs with
        | nil => simp [insertFrame]
        | cons x xs ih =>
          simp only [insertFrame]
          split
          · simp
          · split
            · simp
            · simp only [List.length_cons]; omega
      omega
  · have m := h.2.2.2
    unfold linkLaw at *
    refine ⟨fun x => ?_, m.2⟩
    unfold LinkRecord.mayHold at x; rw [hl] at x; exact absurd x (by simp)

/-! ### Work on one link alone -/

/-- Work that touches no bay but p's link and pool, beside the notices. -/
structure Only (p : Pos) (s t : State) : Prop where
  next : t.next = s.next
  controller : t.controller = s.controller
  bays : t.bays = s.bays
  trip : t.trip = s.trip
  link : ∀ q, q ≠ p → t.link q = s.link q
  pool : ∀ q, q ≠ p → t.linkPool q = s.linkPool q

theorem Only.refl (p : Pos) (s : State) : Only p s s := ⟨rfl, rfl, rfl, rfl, fun _ _ => rfl, fun _ _ => rfl⟩

theorem Only.trans {p : Pos} {s t u : State} (h : Only p s t) (k : Only p t u) : Only p s u :=
  ⟨k.next.trans h.next, k.controller.trans h.controller, k.bays.trans h.bays, k.trip.trans h.trip,
    fun q e => (k.link q e).trans (h.link q e), fun q e => (k.pool q e).trans (h.pool q e)⟩

theorem Only.bay {p : Pos} {s t : State} (h : Only p s t) (q : Pos) : t.bay q = s.bay q := by unfold State.bay; rw [h.bays]

/-- Such work keeps the laws where it keeps those of the one bay. -/
theorem Only.lawly {p : Pos} {s t : State} (h : Only p s t)
    (here : poolLaws s.next (s.bay p) (s.link p) (s.linkPool p) → poolLaws s.next (s.bay p) (t.link p) (t.linkPool p)) : Lawly s t := by
  refine ⟨h.next, by rw [h.controller], by unfold State.depth; rw [h.controller], fun q => by rw [h.bay], fun q => ?_, fun q => ?_⟩
  · rw [h.bay]
    by_cases e : q = p
    · subst e; exact here
    · rw [h.link q e, h.pool q e]; exact id
  · rw [h.bay]; unfold State.tripState; rw [h.trip]; exact id

theorem only_modLink (s : State) (p : Pos) (f : LinkRecord → LinkRecord) : Only p s (s.modLink p f) :=
  ⟨rfl, rfl, rfl, rfl, fun _ e => link_modLink_other s e f, fun _ _ => rfl⟩

theorem only_modPool (s : State) (p : Pos) (f : LinkPool → LinkPool) : Only p s (s.modPool p f) :=
  ⟨rfl, rfl, rfl, rfl, fun _ _ => rfl, fun _ e => linkPool_modPool_other s e f⟩

theorem only_post (s : State) (p : Pos) (r : Report) : Only p s (s.post r) := ⟨rfl, rfl, rfl, rfl, fun _ _ => rfl, fun _ _ => rfl⟩

theorem only_endLinkOp (s : State) (p : Pos) (r : LinkResult) : Only p s (s.endLinkOp p r) :=
  (only_modLink ..).trans (only_post ..)

theorem only_abortLinkOp (s : State) (p : Pos) : Only p s (s.abortLinkOp p) := by
  unfold State.abortLinkOp
  split
  · split
    · exact (only_modPool ..).trans (only_endLinkOp ..)
    · exact (only_modLink ..).trans (only_endLinkOp ..)
  · exact .refl ..

theorem only_discardFrames (s : State) (p : Pos) : Only p s (s.discardFrames p) := only_modPool ..

theorem only_closeLink (s : State) (p : Pos) (d w : Bool) : Only p s (s.closeLink p d w) :=
  (only_abortLinkOp ..).trans ((only_discardFrames ..).trans (only_modLink ..))

theorem link_endLinkOp (s : State) (p : Pos) (r : LinkResult) :
    (s.endLinkOp p r).link p = { s.link p with op := { (s.link p).op with state := .done, result := some r } } := by
  unfold State.endLinkOp; rw [link_post, link_modLink]

theorem linkPool_endLinkOp (s : State) (p q : Pos) (r : LinkResult) : (s.endLinkOp p r).linkPool q = s.linkPool q := rfl

/-- What an abort leaves of the link: no operation BUSY, and no timer where an OPEN was. -/
theorem link_abortLinkOp (s : State) (p : Pos) :
    ((s.abortLinkOp p).link p).busy = false ∧
      (((s.abortLinkOp p).link p).timer = none ∨ ((s.abortLinkOp p).link p).timer = (s.link p).timer ∧ (s.link p).opens = false) := by
  unfold State.abortLinkOp
  split
  · rename_i e
    split
    · rename_i k
      rw [link_endLinkOp]
      exact ⟨rfl, .inr ⟨rfl, by unfold LinkRecord.opens; rw [k]; simp⟩⟩
    · rw [link_endLinkOp, link_modLink]
      exact ⟨rfl, .inl rfl⟩
  · rename_i e
    have e' : (s.link p).busy = false := by simpa using e
    exact ⟨e', .inr ⟨rfl, by unfold LinkRecord.opens; rw [e']; rfl⟩⟩

/-- What an abort leaves of the pool: as it was, or the allocation applied. -/
theorem linkPool_abortLinkOp (s : State) (p : Pos) :
    (s.abortLinkOp p).linkPool p =
      if (s.link p).busy = true ∧ (s.link p).op.kind = .reallocate then (s.linkPool p).applied s.next (s.bay p).alloc
      else s.linkPool p := by
  unfold State.abortLinkOp
  split
  · rename_i e
    split
    · rename_i k
      rw [linkPool_endLinkOp, linkPool_modPool, if_pos ⟨e, k⟩]
    · rename_i k
      rw [linkPool_endLinkOp, if_neg fun x => k x.2]; rfl
  · rename_i e
    rw [if_neg fun x => e x.1]

theorem lawly_closeLink (s : State) (p : Pos) (d w : Bool) (c : d = true → (s.bay p).configured = true) :
    Lawly s (s.closeLink p d w) := by
  refine (only_closeLink s p d w).lawly fun h => ?_
  have el : (s.closeLink p d w).link p = ((s.abortLinkOp p).link p).closed d w := by
    unfold State.closeLink; rw [link_modLink]; rfl
  have eq : (s.closeLink p d w).linkPool p = { (s.abortLinkOp p).linkPool p with frames := [] } := by
    unfold State.closeLink State.discardFrames
    rw [linkPool_modLink, linkPool_modPool]
  obtain ⟨hb, ht⟩ := link_abortLinkOp s p
  have m := h.2.2.2
  rw [el, eq, linkPool_abortLinkOp]
  have st : ((((s.abortLinkOp p).link p).closed d w).state = .down ∨ (((s.abortLinkOp p).link p).closed d w).state = .dormant) := by
    unfold LinkRecord.closed; cases d <;> simp
  have tm : (((s.abortLinkOp p).link p).closed d w).timer = none := by
    show ((s.abortLinkOp p).link p).timer = none
    rcases ht with e | ⟨e, o⟩
    · exact e
    · rw [e]
      by_contra x
      have := m.2.2.2.1 (Option.isSome_iff_ne_none.2 x)
      rw [o] at this; exact absurd this (by decide)
  have stalled : ({ (if (s.link p).busy = true ∧ (s.link p).op.kind = .reallocate then (s.linkPool p).applied s.next (s.bay p).alloc
      else s.linkPool p) with frames := [] } : LinkPool).stalled = false := by
    show (if (s.link p).busy = true ∧ (s.link p).op.kind = .reallocate then (s.linkPool p).applied s.next (s.bay p).alloc
      else s.linkPool p).stalled = false
    split
    · rfl
    · rename_i e
      have := mt m.2.1.2 e
      simpa using this
  refine ⟨?_, ?_, ?_, linkLaw_quiet st hb tm rfl stalled⟩
  · have := h.1
    unfold allocLaw at *
    split
    · rename_i e; rwa [if_pos e] at this
    · rename_i e
      rw [if_neg e] at this
      refine ⟨this.1, ?_⟩
      cases d
      · rfl
      · exact absurd (c rfl) e
  · have g := h.2.1
    unfold grantLaw at g ⊢
    rw [if_neg (by rw [stalled]; decide)]
    show (if _ then _ else _ : LinkPool).span = _ ∧ (if _ then _ else _ : LinkPool).grant = _
    split
    · exact ⟨rfl, rfl⟩
    · rename_i e
      have hs : ¬ (s.linkPool p).stalled = true := mt m.2.1.2 e
      rwa [if_neg hs] at g
  · exact ⟨Nat.zero_le _, rfl, fun f hf => absurd hf (by simp)⟩

/-! ### Ends of a bring-up, arrivals, sample boundaries -/

theorem law_countError (s : State) (p : Pos) (k : ErrorKind) : ((s.countError p k).link p).law = (s.link p).law := by
  unfold State.countError
  split
  · rw [link_modLink]; rfl
  · have e : ∀ (rs : List Report) (t : State), (t.postAll rs).link p = t.link p := fun rs t =>
      foldl_same (v := fun u : State => u.link p) (f := State.post) (fun _ _ => rfl) rs t
    rw [e, link_modLink]; rfl

theorem lawly_failBringUp (s : State) (p : Pos) (r : LinkResult) (hl : (s.link p).state.bringingUp = true)
    (hr : (s.link p).recovery = false) : Lawly s (s.failBringUp p r) := by
  refine ((only_modLink ..).trans (only_endLinkOp ..) : Only p s (s.failBringUp p r)).lawly fun h => ?_
  have e : (s.failBringUp p r).link p =
      { (s.link p).broughtDown with op := { (s.link p).broughtDown.op with state := .done, result := some r } } := by
    unfold State.failBringUp; rw [link_endLinkOp, link_modLink]
  rw [e]
  exact poolLaws_failed h hl hr rfl rfl rfl

theorem lawly_toHunt (s : State) (p : Pos) (hl : (s.link p).state.bringingUp = true) {f : LinkRecord → LinkRecord}
    (h1 : (f (s.link p)).state = .hunt) (h2 : (f (s.link p)).recovery = (s.link p).recovery) (h3 : (f (s.link p)).op = (s.link p).op)
    (h4 : (f (s.link p)).timer = (s.link p).timer) : Lawly s (s.modLink p f) :=
  lawly_modLink s p fun h => poolLaws_bring h hl (by rw [h1]; rfl) h2 h3 (by rw [h4])

theorem lawly_failMeasure (s : State) (p : Pos) (r : LinkResult) (hl : (s.link p).state.bringingUp = true) :
    Lawly s (s.failMeasure p r) := by
  unfold State.failMeasure
  split
  · exact lawly_toHunt s p hl rfl rfl rfl rfl
  · rename_i e; exact lawly_failBringUp s p r hl (by simpa using e)

theorem lawful_protection {s : State} (h : s.lawful) (n : s.controller.protection ≠ .running) {t : State} (nx : t.next = s.next)
    (d : t.depth = s.depth) (b : t.bays = s.bays) (l : t.links = s.links) (q : t.pool = s.pool) (u : t.trip.bays = s.trip.bays) :
    t.lawful := by
  refine ⟨by rw [d]; exact h.1, by rw [b]; exact h.2.1, fun p => ⟨?_, ?_⟩⟩
  · unfold State.bay State.link State.linkPool; rw [nx, b, l, q]; exact (h.2.2 p).1
  · unfold State.bay State.tripState; rw [b, u]
    have := (h.2.2 p).2
    exact ⟨fun x => absurd (this.1 x).1 n, this.2⟩

theorem lawful_testStart {s : State} (h : s.lawful) : s.testStart.lawful := by
  unfold State.testStart
  split
  · rename_i e
    unfold State.startHolds at e
    simp only [Bool.and_eq_true, beq_iff_eq] at e
    exact lawful_protection (t := s.succeedStart) h (by rw [e.1]; decide) rfl rfl rfl rfl rfl rfl
  · exact h

theorem lawful_activate {s : State} (p : Pos) (h : s.lawful) (hl : (s.link p).state.bringingUp = true)
    (g : (s.link p).lastGood.isSome = true) : (s.activate p).lawful := by
  unfold State.activate
  simp only
  refine lawful_testStart ?_
  have base : Only p s ((s.modLink p LinkRecord.activated).post ((s.link p).activeReport p)) :=
    (only_modLink ..).trans (only_post ..)
  split
  · rename_i e
    refine (base.lawly fun k => ?_).lawful h
    rw [link_post, link_modLink]
    exact poolLaws_activated k hl rfl rfl g (by rw [if_pos e]; rfl)
  · rename_i e
    refine ((base.trans (only_endLinkOp ..)).lawly fun k => ?_).lawful h
    rw [link_endLinkOp, link_post, link_modLink]
    exact poolLaws_activated k hl rfl rfl g (by rw [if_neg e]; rfl)

theorem lawful_measure {s : State} (p : Pos) (q : Seq) (h : s.lawful) (hl : (s.link p).state.bringingUp = true) :
    (s.measure p q).lawful := by
  unfold State.measure
  simp only
  have hm : Lawly s (s.modLink p (LinkRecord.measured q (s.lag q))) :=
    lawly_modLink s p fun k => poolLaws_bring k hl hl rfl rfl rfl
  have el : (s.modLink p (LinkRecord.measured q (s.lag q))).link p = LinkRecord.measured q (s.lag q) (s.link p) := link_modLink ..
  have bm : ((s.modLink p (LinkRecord.measured q (s.lag q))).link p).state.bringingUp = true := by rw [el]; exact hl
  have bc : ∀ k, (((s.modLink p (LinkRecord.measured q (s.lag q))).countError p k).link p).state.bringingUp = true := fun k => by
    rw [(LinkRecord.law_ext (law_countError _ p k)).1]; exact bm
  split
  · exact (hm.trans ((lawly_countError ..).trans (lawly_failMeasure _ _ _ (bc _)))).lawful h
  · exact (hm.trans ((lawly_countError ..).trans (lawly_failMeasure _ _ _ (bc _)))).lawful h
  · exact lawful_activate p (hm.lawful h) bm (by rw [el]; rfl)
  · exact hm.lawful h

theorem lawly_activeFrame (s : State) (p : Pos) (f : StoredFrame) (hl : (s.link p).state = .active) : Lawly s (s.activeFrame p f) := by
  unfold State.activeFrame
  simp only
  have hm : Lawly s (s.modLink p (LinkRecord.heard f.sequence)) :=
    lawly_modLink s p fun k => poolLaws_active k hl hl rfl rfl rfl rfl
  split
  · exact hm.trans (lawly_countError ..)
  · rename_i e
    refine hm.trans (lawly_modPool _ p fun k => ?_)
    have ha : ((s.modLink p (LinkRecord.heard f.sequence)).link p).state = .active := by rw [link_modLink]; exact hl
    unfold State.refusedFor at e
    split at e
    · cases e
    · rename_i h1
      split at e
      · cases e
      · split at e
        · cases e
        · rename_i h2
          split at e
          · cases e
          · rename_i h3
            exact poolLaws_store k ha f (by simpa using h1) (by simpa using h2) (eq_false_of_ne_true h3)

theorem lawly_dormantFrame (s : State) (p : Pos) (q : Seq) (hl : (s.link p).state = .dormant) : Lawly s (s.dormantFrame p q) := by
  unfold State.dormantFrame
  refine .ite (.refl _) (.ite ((lawly_modLinkSame s p rfl).trans (lawly_post ..)) (.ite ((lawly_modLinkSame s p rfl).trans
    (lawly_post ..)) ((lawly_modLink s p fun k => ?_).trans (lawly_post ..))))
  exact poolLaws_opened k _ true (poolLaws_configured k (by rw [hl]; decide)) (by rw [hl]; rfl)

theorem lawly_badFrame (s : State) (p : Pos) (k : ErrorKind) : Lawly s (s.badFrame p k) := by
  have st : ((s.countError p k).link p).state = (s.link p).state := (LinkRecord.law_ext (law_countError s p k)).1
  unfold State.badFrame
  simp only
  split
  · rename_i e
    exact (lawly_countError ..).trans (lawly_toHunt _ p (by rw [st, e]; rfl) rfl rfl rfl rfl)
  · rename_i e
    exact (lawly_countError ..).trans (lawly_toHunt _ p (by rw [st, e]; rfl) rfl rfl rfl rfl)
  · exact lawly_countError ..

theorem lawful_goodFrame {s : State} (p : Pos) (f : StoredFrame) (h : s.lawful) : (s.goodFrame p f).lawful := by
  unfold State.goodFrame
  split
  · exact h
  · rename_i e; exact (lawly_dormantFrame s p _ e).lawful h
  · rename_i e
    exact (lawly_modLink s p fun k => poolLaws_bring k (by rw [e]; rfl) rfl rfl rfl rfl).lawful h
  · rename_i e
    have hl : (s.link p).state.bringingUp = true := by rw [e]; rfl
    split
    · refine (lawly_modLink s p fun k => ?_).lawful h
      unfold LinkRecord.lockStep
      split
      · exact poolLaws_bring k hl rfl rfl rfl rfl
      · exact poolLaws_bring k hl hl rfl rfl rfl
    · exact (lawly_toHunt s p hl rfl rfl rfl rfl).lawful h
  · rename_i e
    have hl : (s.link p).state.bringingUp = true := by rw [e]; rfl
    split
    · exact lawful_measure p _ h hl
    · exact (lawly_toHunt s p hl rfl rfl rfl rfl).lawful h
  · rename_i e; exact (lawly_activeFrame s p f e).lawful h

theorem lawful_arrive {s : State} (p : Pos) (bs : List Byte) (h : s.lawful) : (s.arrive p bs).lawful := by
  unfold State.arrive
  split
  · exact lawful_goodFrame p _ h
  · split
    · exact (lawly_badFrame ..).lawful h
    · exact h
  · split
    · exact (lawly_badFrame ..).lawful h
    · exact h

theorem lawly_loseSync (s : State) (p : Pos) (hl : (s.link p).state = .active) : Lawly s (s.loseSync p) := by
  unfold State.loseSync
  simp only
  have h1 : Lawly s (s.modLink p LinkRecord.age) := lawly_modLinkSame s p rfl
  have a1 : ((s.modLink p LinkRecord.age).link p).state = .active := by rw [link_modLink]; exact hl
  have h2 := h1.trans (lawly_countError _ p .syncLoss)
  have a2 : (((s.modLink p LinkRecord.age).countError p .syncLoss).link p).state = .active :=
    (LinkRecord.law_ext (law_countError _ p .syncLoss)).1.trans a1
  split
  · exact h2.trans (lawly_modLink _ p fun k => poolLaws_lost k a2 rfl rfl rfl rfl)
  · refine (h2.trans (lawly_post ..)).trans (lawly_modLink _ p fun k => poolLaws_lost k ?_ rfl rfl rfl rfl)
    rw [link_post]; exact a2

theorem lawly_timeLock (s : State) (p : Pos) (hl : (s.link p).state.bringingUp = true) : Lawly s (s.timeLock p) :=
  lawly_toHunt s p hl rfl rfl rfl rfl

/-- The timer runs out in a bring-up under an operation alone. -/
theorem lawful_tickTimer {s : State} (p : Pos) (h : s.lawful) : (s.tickTimer p).lawful := by
  unfold State.tickTimer
  split
  · rename_i e
    unfold LinkRecord.runsOut at e
    rw [Bool.and_eq_true] at e
    have hs : (s.link p).timer.isSome = true := by
      cases ht : (s.link p).timer
      · rw [ht] at e; exact absurd e.2 (by simp)
      · rfl
    have m := (h.2.2 p).1.2.2.2
    have o := m.2.2.1.1 (m.2.2.2.1 hs)
    exact (lawly_failBringUp s p _ o.1 o.2).lawful h
  · refine (lawly_modLinkSame s p ?_).lawful h
    unfold LinkRecord.law
    cases (s.link p).timer <;> rfl

theorem lawful_tickLink (s : State) (p : Pos) (h : s.lawful) : (s.tickLink p).lawful := by
  have age : (s.modLink p LinkRecord.age).lawful := (lawly_modLinkSame s p rfl).lawful h
  unfold State.tickLink
  split
  · exact h
  · exact h
  · exact lawful_tickTimer p age
  · rename_i e
    refine lawful_tickTimer p ?_
    split
    · exact (lawly_timeLock s p (by rw [e]; rfl)).lawful h
    · exact age
  · rename_i e
    refine lawful_tickTimer p ?_
    split
    · exact (lawly_timeLock s p (by rw [e]; rfl)).lawful h
    · exact age
  · rename_i e
    split
    · exact (lawly_loseSync s p e).lawful h
    · exact age

theorem lawful_tickLinks {s : State} (h : s.lawful) : s.tickLinks.lawful := foldl_keeps (P := State.lawful) lawful_tickLink _ _ h

theorem lawly_sendFrames (s : State) : Lawly s s.sendFrames := by
  refine ⟨rfl, rfl, rfl, fun _ => rfl, fun p => ?_, fun _ => id⟩
  have e : (s.sendFrames.link p).law = (s.link p).law := by
    unfold State.sendFrames State.link
    simp only [Table.get_build]; rfl
  exact poolLaws_congr rfl e

end Sys2Proof.Machine
end

