-- ==== Sys2Proof/Laws/LawfulRelease.lean ====
section
/-! SUPPORT. A release keeps the laws of the pool, the links and the latches. -/

namespace Sys2Proof.Machine

/-! ### The Bay Table's work -/

theorem law_withElement (b : BayRecord) (e : Element) (r : ElementRecord) : (b.withElement e r).law = b.law := by cases e <;> rfl

theorem law_elements (f : Element → BayRecord → ElementRecord) (es : List Element) (b : BayRecord) :
    (es.foldl (fun b e => b.withElement e (f e b)) b).law = b.law :=
  foldl_same (v := BayRecord.law) (fun b e => law_withElement b e (f e b)) es b

theorem law_consumeStatus (g : Settings) (w : StatusWord) (b : BayRecord) : (b.consumeStatus g w).law = b.law :=
  law_elements (fun e b => (b.element e).consume g.openDebounce (w.pair e).status) b.kind.elements b

theorem law_storeCurrents (q : Seq) (f : StoredFrame) (b : BayRecord) : (b.storeCurrents q f).law = b.law := by
  unfold BayRecord.storeCurrents
  split <;> rfl

theorem law_travelStep (g : Settings) (b : BayRecord) : (b.travelStep g).law = b.law :=
  law_elements (fun e b => (b.element e).travelStep g.travelLimit) b.kind.elements b

theorem law_runStep (q : Seq) (x : Bool) (b : BayRecord) : (b.runStep q x).law = b.law := by
  unfold BayRecord.runStep
  split
  · rfl
  · split <;> rfl

/-- A violation makes a MAINTENANCE bay IN_SERVICE. -/
theorem law_violated (b : BayRecord) : (if b.violates then { b with service := .inService } else b : BayRecord).law = b.law := by
  split
  · rename_i h
    unfold BayRecord.violates at h
    simp only [Bool.and_eq_true, beq_iff_eq] at h
    unfold BayRecord.law
    rw [h.1]; rfl
  · rfl

theorem law_step (g : Settings) (q : Seq) (f : Option StoredFrame) (b : BayRecord) : (b.step g q f).record.law = b.law := by
  unfold BayRecord.step
  simp only
  rw [law_violated, law_runStep, law_travelStep]
  cases f
  · rfl
  · simp only [law_storeCurrents, law_consumeStatus]

theorem lawly_workBay (q : Seq) (s : State) (p : Pos) : Lawly s (s.workBay q p) := by
  unfold State.workBay
  simp only
  have h1 : Lawly s ((s.modBay p fun _ => (s.bayStep q p).record).postAll
      (bayReports p ((s.bayStep q p).before ++ (s.bayStep q p).violation))) :=
    (lawly_modBay s p (law_step ..)).trans (lawly_postAll ..)
  exact .ite (.after (lawly_postAll ..) (.ite (h1.trans (lawly_cancelOrders ..)) h1)) (.refl s)

theorem lawly_bays (s : State) (q : Seq) : Lawly s (allPos.foldl (State.workBay q) s) := Lawly.foldl (lawly_workBay q) _ _

theorem lawful_workBays {s : State} (q : Seq) (h : s.lawful) : (s.workBays q).lawful := lawful_testStart ((lawly_bays s q).lawful h)

/-- In RUNNING no start is tested. -/
theorem testStart_running {s : State} (r : s.controller.protection = .running) : s.testStart = s := by
  unfold State.testStart State.startHolds
  rw [r]; rfl

theorem running_workBays {s : State} (q : Seq) (r : s.controller.protection = .running) :
    (s.beginRelease.workBays q).controller.protection = .running := by
  have h : (allPos.foldl (State.workBay q) s.beginRelease).controller.protection = .running :=
    (lawly_bays s.beginRelease q).protection.trans r
  unfold State.workBays
  rw [testStart_running h]; exact h

theorem lawly_evaluate (s : State) (pic : Picture) (h : Table BayHand) : Lawly s (s.evaluate pic h) := .same rfl

theorem lawful_protect {s : State} (q : Seq) (hs : Table BayHand) (ts : List Pos) (r : s.controller.protection = .running)
    (h : s.lawful) : (s.protect q hs ts).lawful := by
  unfold State.protect
  split
  · exact h
  · rename_i pic _
    have k := (lawly_evaluate s pic hs).trans
      (lawly_supervise _ s.active ((s.evaluated pic hs).map Prod.snd) ((s.evaluatedCheck pic hs).map Prod.snd))
    exact lawful_tripWork _ q hs ts (k.protection.trans r) (k.lawful h)

theorem lawly_exchange (s : State) (x : SwitchTrigger) : Lawly s (s.exchange x) := .same rfl

theorem lawly_decideBoundary (s : State) (q : Seq) (v : Protection) : Lawly s (s.decideBoundary q v) := by
  unfold State.decideBoundary
  split
  · split
    · exact lawly_exchange ..
    · exact .same rfl
  · exact .refl _

/-! ### Steps 6 and 7: slots freed, next_release and the grants advanced, drains that end (R88, R90, R95) -/

/-- A shrink whose held span has come down to ALLOC: the drain check of this release ends it. -/
def ending (n : Seq) (b : BayRecord) (l : LinkRecord) (q : LinkPool) : Prop :=
  b.configured = true ∧ q.stalled = true ∧ q.grant = grantFor n b.alloc ∧ allocLaw b l ∧ framesLaw n b.alloc q ∧ linkLaw l q

/-- A link's pool after step 6 and the advance of next_release. -/
def LinkPool.advanced (n : Seq) (q : LinkPool) : LinkPool :=
  if q.stalled then { q with frames := freeFrame n q.frames }
  else { q with frames := freeFrame n q.frames, grant := grantFor (n + 1) q.span }

/-- A frame freed and next_release advanced: the window of the rest falls by one. -/
theorem window_free {n : Seq} {fs : List StoredFrame} {w : Nat} (k : ∀ f ∈ fs, (f.sequence - n).toNat < w) :
    ∀ f ∈ freeFrame n fs, (f.sequence - (n + 1)).toNat < w - 1 := by
  intro f hf
  simp only [freeFrame, List.mem_filter, bne_iff_ne] at hf
  have h := k f hf.1
  have ne : f.sequence.toNat ≠ n.toNat := fun e => hf.2 (BitVec.eq_of_toNat_eq e)
  have h1 := f.sequence.isLt
  have h2 := n.isLt
  simp only [BitVec.toNat_sub, BitVec.toNat_add, toNat_one] at h ⊢
  omega

theorem grantFor_succ (n : Seq) (w : Nat) (h : 1 ≤ w) : grantFor n w = grantFor (n + 1) (w - 1) := by
  unfold grantFor seqOf
  apply BitVec.eq_of_toNat_eq
  simp only [BitVec.toNat_sub, BitVec.toNat_add, BitVec.toNat_ofNat, toNat_one]
  omega

theorem poolLaws_advanced {n : Seq} {b : BayRecord} {l : LinkRecord} {q : LinkPool} (h : poolLaws n b l q) :
    poolLaws (n + 1) b l (q.advanced n) ∨ ending (n + 1) b l (q.advanced n) := by
  have hf := h.2.2.1
  have sorted := framesSorted_free n q.frames hf.2.1
  have len : (freeFrame n q.frames).length ≤ b.alloc := Nat.le_trans (List.length_filter_le ..) hf.1
  have ll : linkLaw l (q.advanced n) := by
    have m := h.2.2.2
    have e1 : (q.advanced n).stalled = q.stalled := by unfold LinkPool.advanced; split <;> rfl
    have e2 : (q.advanced n).frames = freeFrame n q.frames := by unfold LinkPool.advanced; split <;> rfl
    unfold linkLaw at *
    rw [e1, e2]
    exact ⟨fun x => ⟨by rw [(m.1 x).1]; rfl, (m.1 x).2⟩, m.2⟩
  by_cases c : b.configured = true
  · obtain ⟨w, w3, w64, wg, wa, wn, ws⟩ := poolLaws_window h c
    have a := poolLaws_alloc h c
    have win := window_free (n := n) (w := w) fun f hf' => (inWindow (by omega) w64).1 (by rw [← wg]; exact hf.2.2 f hf')
    cases hs : q.stalled
    · left
      have e : q.advanced n = { q with frames := freeFrame n q.frames, grant := grantFor (n + 1) q.span } := by
        unfold LinkPool.advanced; rw [hs]; rfl
      have sp : q.span = b.alloc := by
        have g := h.2.1
        unfold grantLaw at g
        rw [if_neg (by rw [hs]; decide)] at g; exact g.1
      refine ⟨h.1, ?_, ?_, ll⟩
      · unfold grantLaw
        rw [e, if_neg (by show ¬ q.stalled = true; rw [hs]; decide)]
        exact ⟨sp, by rw [← sp]⟩
      · rw [e]
        refine ⟨len, sorted, fun f hf' => ?_⟩
        show _ ∧ ahead f.sequence (grantFor (n + 1) q.span) = false
        rw [sp]
        exact (inWindow (by omega) a.2).2 (by have := win f hf'; rw [wn hs] at this; omega)
    · have e : q.advanced n = { q with frames := freeFrame n q.frames } := by
        unfold LinkPool.advanced; rw [hs]; rfl
      obtain ⟨s1, s2, s3⟩ := ws hs
      have g : (q.advanced n).grant = grantFor (n + 1) (w - 1) := by
        rw [e]; show q.grant = _; rw [wg]; exact grantFor_succ n w (by omega)
      have fl : framesLaw (n + 1) b.alloc (q.advanced n) := by
        refine ⟨by rw [e]; exact len, by rw [e]; exact sorted, fun f hf' => ?_⟩
        rw [g]
        refine (inWindow (by omega) (by omega)).2 (win f ?_)
        rw [e] at hf'; exact hf'
      by_cases z : w - 1 = b.alloc
      · right
        exact ⟨c, by rw [e]; exact hs, by rw [g, z], h.1, fl, ll⟩
      · left
        refine ⟨h.1, ?_, fl, ll⟩
        unfold grantLaw
        rw [if_pos (by rw [e]; exact hs)]
        have hh : (q.advanced n).heldSpan (n + 1) = (w - 1 : Nat) := (heldSpan_iff (by omega) (by omega)).2 g
        rw [hh]
        refine ⟨by omega, ?_, by rw [e]; exact s3⟩
        have e3 : (q.advanced n).span = q.span := by rw [e]
        rw [e3]
        omega
  · left
    have al := h.1
    unfold allocLaw at al
    rw [if_neg c] at al
    have nh : l.mayHold = false := by unfold LinkRecord.mayHold; rw [al.2]; simp [LinkState.bringingUp]
    obtain ⟨f0, s0⟩ := h.2.2.2.1 nh
    have g := h.2.1
    unfold grantLaw at g
    rw [if_neg (by rw [s0]; decide)] at g
    have e : q.advanced n = { q with frames := freeFrame n q.frames, grant := grantFor (n + 1) q.span } := by
      unfold LinkPool.advanced; rw [s0]; rfl
    refine ⟨h.1, ?_, ?_, ll⟩
    · unfold grantLaw
      rw [e, if_neg (by show ¬ q.stalled = true; rw [s0]; decide)]
      exact ⟨g.1, by rw [← g.1]⟩
    · rw [e]
      refine ⟨len, sorted, fun f hf' => ?_⟩
      rw [f0] at hf'
      exact absurd hf' (by simp [freeFrame])

/-- The drain check of a shrink that is at its end. -/
theorem poolLaws_drained {n : Seq} {b : BayRecord} {l k : LinkRecord} {q : LinkPool} (h : ending n b l q)
    (ks : k.state = l.state) (kr : k.recovery = l.recovery) (kb : k.busy = false) (kt : k.timer = l.timer)
    (kg : k.lastGood = l.lastGood) : poolLaws n b k (q.applied n b.alloc) := by
  obtain ⟨c, s, g, a, f, m⟩ := h
  have a' : 3 ≤ b.alloc ∧ b.alloc ≤ 64 := by unfold allocLaw at a; rwa [if_pos c] at a
  have bk := m.2.1.2 s
  have lo : l.opens = false := by unfold LinkRecord.opens; rw [bk.2]; simp
  refine ⟨?_, grantLaw_applied .., framesLaw_applied a'.1 a'.2 f.2.1 fun x hx => ?_, ?_⟩
  · unfold allocLaw at *; rw [if_pos c] at *; exact a
  · exact (inWindow (by omega) a'.2).1 (by rw [← g]; exact f.2.2 x hx)
  · unfold linkLaw
    have ko : k.opens = false := by unfold LinkRecord.opens; rw [kb]; rfl
    rw [kb, ko, ks, kr, kt, kg]
    refine ⟨fun x => ?_, by simp [LinkPool.applied], ?_, fun x => ?_, m.2.2.2.2⟩
    · have : l.mayHold = false := by unfold LinkRecord.mayHold at *; rw [ks, kr] at x; exact x
      exact ⟨(m.1 this).1, rfl⟩
    · rw [← m.2.2.1, lo]
    · rw [← lo]; exact m.2.2.2.1 x

theorem only_drainCheck (s : State) (p : Pos) : Only p s (s.drainCheck p) := by
  unfold State.drainCheck
  split
  · exact (only_modPool ..).trans (only_endLinkOp ..)
  · exact .refl ..

/-- The Frame Pool's test leaves a link's laws whole. -/
theorem poolLaws_drainCheck (s : State) (p : Pos)
    (h : poolLaws s.next (s.bay p) (s.link p) (s.linkPool p) ∨ ending s.next (s.bay p) (s.link p) (s.linkPool p)) :
    poolLaws s.next (s.bay p) ((s.drainCheck p).link p) ((s.drainCheck p).linkPool p) := by
  unfold State.drainCheck
  rcases h with h | h
  · have no : s.drained p = false := by
      unfold State.drained
      cases hs : (s.linkPool p).stalled
      · rfl
      · have g := h.2.1
        unfold grantLaw at g
        rw [if_pos hs] at g
        simp only [Bool.true_and, decide_eq_false_iff_not]
        omega
    rw [no]; exact h
  · have a' : 3 ≤ (s.bay p).alloc ∧ (s.bay p).alloc ≤ 64 := by
      have a := h.2.2.2.1
      unfold allocLaw at a; rwa [if_pos h.1] at a
    have hh : (s.linkPool p).heldSpan s.next = ((s.bay p).alloc : Nat) := (heldSpan_iff (by omega) a'.2).2 h.2.2.1
    have yes : s.drained p = true := by
      unfold State.drained
      rw [h.2.1, hh]; simp
    rw [yes]
    simp only [if_true]
    rw [link_endLinkOp, linkPool_endLinkOp, linkPool_modPool]
    exact poolLaws_drained h rfl rfl rfl rfl rfl

/-- The drain checks of several links, one after another. -/
theorem poolLaws_drainChecks (ps : List Pos) (s : State)
    (h : ∀ p, poolLaws s.next (s.bay p) (s.link p) (s.linkPool p) ∨ ending s.next (s.bay p) (s.link p) (s.linkPool p)) :
    let t := ps.foldl State.drainCheck s
    (t.next = s.next ∧ t.controller = s.controller ∧ t.bays = s.bays ∧ t.trip = s.trip) ∧
      ∀ p, (p ∈ ps ∨ poolLaws s.next (s.bay p) (s.link p) (s.linkPool p)) → poolLaws s.next (s.bay p) (t.link p) (t.linkPool p) := by
  induction ps generalizing s with
  | nil => exact ⟨⟨rfl, rfl, rfl, rfl⟩, fun p k => k.resolve_left (by simp)⟩
  | cons p ps ih =>
    have o := only_drainCheck s p
    have hp := poolLaws_drainCheck s p (h p)
    have hq : ∀ q, poolLaws (s.drainCheck p).next ((s.drainCheck p).bay q) ((s.drainCheck p).link q) ((s.drainCheck p).linkPool q) ∨
        ending (s.drainCheck p).next ((s.drainCheck p).bay q) ((s.drainCheck p).link q) ((s.drainCheck p).linkPool q) := fun q => by
      rw [o.next, o.bay]
      by_cases e : q = p
      · subst e; exact .inl hp
      · rw [o.link q e, o.pool q e]; exact h q
    obtain ⟨⟨i1, i2, i3, i4⟩, i5⟩ := ih (s.drainCheck p) hq
    rw [List.foldl_cons]
    refine ⟨⟨i1.trans o.next, i2.trans o.controller, i3.trans o.bays, i4.trans o.trip⟩, fun q k => ?_⟩
    have := i5 q
    rw [o.next, o.bay] at this
    refine this ?_
    by_cases e : q = p
    · subst e; exact .inr hp
    · rw [o.link q e, o.pool q e]
      rcases k with k | k
      · exact .inl ((List.mem_cons.1 k).resolve_left e)
      · exact .inr k

/-- Steps 6 and 7 of the release of next_release. -/
theorem lawful_step7 {s : State} (h : s.lawful) : ((s.freeSlots s.next).advanceNext s.next).lawful := by
  unfold State.advanceNext State.advanceGrants
  obtain ⟨t, ht⟩ : ∃ t : State, t =
      { s with
        releaseUnit := { s.releaseUnit with next := s.next + 1 }
        pool := (s.pool.map fun k => { k with frames := freeFrame s.next k.frames }).map fun q =>
          if q.stalled then q else { q with grant := grantFor (s.next + 1) q.span } } := ⟨_, rfl⟩
  have hp : ∀ p, t.linkPool p = (s.linkPool p).advanced s.next := fun p => by
    rw [ht]
    unfold State.linkPool LinkPool.advanced
    simp only [Table.get_map]
  have hall : ∀ p, poolLaws t.next (t.bay p) (t.link p) (t.linkPool p) ∨ ending t.next (t.bay p) (t.link p) (t.linkPool p) := fun p => by
    rw [hp, show t.next = s.next + 1 by rw [ht]; rfl, show t.bay p = s.bay p by rw [ht]; rfl,
      show t.link p = s.link p by rw [ht]; rfl]
    exact poolLaws_advanced (h.2.2 p).1
  obtain ⟨⟨i1, i2, i3, i4⟩, i5⟩ := poolLaws_drainChecks allPos t hall
  have e : allPos.foldl State.drainCheck t = (State.advanceGrants
      { s.freeSlots s.next with releaseUnit := { (s.freeSlots s.next).releaseUnit with next := s.next + 1 } }) := by rw [ht]; rfl
  show (State.advanceGrants
      { s.freeSlots s.next with releaseUnit := { (s.freeSlots s.next).releaseUnit with next := s.next + 1 } }).lawful
  rw [← e]
  refine ⟨?_, ?_, fun p => ⟨?_, ?_⟩⟩
  · unfold State.depth; rw [i2, ht]; exact h.1
  · rw [i3, ht]; exact h.2.1
  · have := i5 p (.inl (mem_allPos p))
    rw [i1]
    unfold State.bay at *
    rw [i3]; exact this
  · unfold State.bay State.tripState
    rw [i2, i3, i4, ht]; exact (h.2.2 p).2

/-! ### A release, and releases in succession -/

theorem lawful_release {s : State} (h : s.lawful) : s.release.lawful := by
  obtain ⟨x, ex, kx⟩ : ∃ x : State, s.release = (x.freeSlots s.next).advanceNext s.next ∧ (x.next = s.next ∧ x.lawful) := by
    refine ⟨_, rfl, ?_, ?_⟩
    · have h1 := (keeps_workBays s.beginRelease s.next).trans
        ((keeps_acknowledgeAll _ s.next (s.hands s.next)).trans (keeps_settlePicture _ s.next))
      have h2 := (Keeps.ite (c := s.controller.protection = .running)
        (h1.trans (keeps_protect _ s.next (s.hands s.next) s.timingBays)) h1).trans
          (keeps_decideBoundary _ s.next s.controller.protection)
      exact (congrArg ReleaseUnit.next h2.releaseUnit : _ = s.beginRelease.releaseUnit.next)
    · have b : s.beginRelease.lawful := Lawly.lawful (s := s) (.same rfl) h
      have h1 := (lawly_acknowledgeAll (s.beginRelease.workBays s.next) s.next (s.hands s.next)).trans (lawly_settlePicture _ s.next)
      have h2 := h1.lawful (lawful_workBays s.next b)
      refine (lawly_decideBoundary ..).lawful ?_
      split
      · rename_i r
        exact lawful_protect _ _ _ (h1.protection.trans (running_workBays s.next r)) h2
      · exact h2
  rw [ex, ← kx.1]
  exact lawful_step7 kx.2

theorem lawful_settleBy : ∀ (n : Nat) {s : State}, s.lawful → (s.settleBy n).lawful
  | 0, _, h => h
  | n + 1, s, h => by
    unfold State.settleBy
    split
    · exact lawful_settleBy n (lawful_release h)
    · exact h

theorem lawful_settle {s : State} (h : s.lawful) : s.settle.lawful := lawful_settleBy _ h

theorem lawful_settleAfter (u : State) {s : State} (h : s.lawful) : (State.settleAfter u s).lawful := by
  unfold State.settleAfter
  split
  · exact h
  · exact lawful_settle h

theorem lawful_arrival {s : State} (p : Pos) (bs : List Byte) (h : s.lawful) : (s.arrival p bs).lawful := by
  unfold State.arrival
  split
  · exact lawful_settle (lawful_arrive p bs h)
  · exact lawful_settleAfter s (lawful_arrive p bs h)

theorem lawly_stickElement (s : State) (p : Pos) (e : Element) : Lawly s (s.stickElement p e) :=
  .ite ((lawly_modBay s p (law_withElement ..)).trans (lawly_post ..)) (.refl s)

theorem lawful_drainCheck (s : State) (p : Pos) (h : s.lawful) : (s.drainCheck p).lawful :=
  ((only_drainCheck s p).lawly fun k => poolLaws_drainCheck s p (.inl k)).lawful h

end Sys2Proof.Machine
end

