-- ==== Sys2Proof/Laws/LawfulAll.lean ====
section
/-! SUPPORT. The requests, the port, the clock and the resets keep the laws of the pool, the links and the latches. -/

namespace Sys2Proof.Machine

/-! ### Bays changed -/

/-- One bay changed, with its pool or not: the laws of that bay, and the budget. -/
theorem lawful_oneBay {s t : State} (p : Pos) (h : s.lawful) (nx : t.next = s.next) (c : t.controller = s.controller)
    (b : ∀ q, q ≠ p → t.bay q = s.bay q) (l : ∀ q, q ≠ p → t.link q = s.link q) (k : ∀ q, q ≠ p → t.linkPool q = s.linkPool q)
    (u : ∀ q, q ≠ p → t.tripState q = s.tripState q) (bud : budgetUsed t.bays ≤ Config.slotCount)
    (pl : poolLaws s.next (t.bay p) (t.link p) (t.linkPool p))
    (ll : latchLaw s.controller.protection (t.bay p) (t.tripState p)) : t.lawful := by
  refine ⟨by unfold State.depth; rw [c]; exact h.1, bud, fun q => ?_⟩
  rw [nx, c]
  by_cases e : q = p
  · subst e; exact ⟨pl, ll⟩
  · rw [b q e, l q e, k q e, u q e]; exact h.2.2 q

/-- A link that is not BUSY and whose bay is not OUT_OF_SERVICE or is: nothing latched on an OUT_OF_SERVICE bay. -/
theorem latchLaw_clear {v : Protection} {b c : BayRecord} {t : TripState} (h : latchLaw v b t) (o : b.service = .outOfService) :
    latchLaw v c t :=
  ⟨fun x => absurd o (h.1 x).2, h.2⟩

/-- The budget with one bay put out of it. -/
theorem budget_without (t : Table BayRecord) (p : Pos) :
    budgetUsed (t.modify p fun b => { b with configured := false }) + (t.get p).share = budgetUsed t :=
  budgetUsed_modify t p fun b => { b with configured := false }

theorem share_le (t : Table BayRecord) (p : Pos) : (t.get p).share ≤ budgetUsed t := by
  have := budget_without t p
  omega

/-! ### CONFIGURE_BAY -/

theorem lawful_configure {s : State} (p : Pos) (k : BayKind) (x : SectionNo) (u : Bus) (c : Nat) (o : Polarity) (a : Nat)
    (h : s.lawful) : (s.configure p k x u c o a).state.lawful := by
  unfold State.configure
  repeat' split
  all_goals first | exact h | skip
  rename_i _ h1 h2 _ h3 h4 _ _ h5
  have h1' : (s.bay p).service = .outOfService := by simpa using h1
  have h2' : (s.link p).state = .down := by simpa using h2
  obtain ⟨pl, ll⟩ := h.2.2 p
  have nh : (s.link p).mayHold = false := by unfold LinkRecord.mayHold; rw [h2']; simp [LinkState.bringingUp]
  obtain ⟨f0, s0⟩ := pl.2.2.2.1 nh
  have d := h.1
  have hal : 3 ≤ a ∧ a ≤ 64 := by omega
  show (s.configured p k x u c o a).lawful
  refine lawful_oneBay p h rfl rfl (fun q e => bay_modBay_other s e _) (fun _ _ => rfl)
    (fun q e => linkPool_modPool_other _ e _) (fun _ _ => rfl) ?_ ?_ ?_
  · show budgetUsed (s.bays.modify p fun _ => BayRecord.configuredAs k x u c o a) ≤ _
    have e1 : budgetUsed (s.bays.modify p fun _ => BayRecord.configuredAs k x u c o a) + (s.bays.get p).share =
        budgetUsed s.bays + a := budgetUsed_modify s.bays p fun _ => BayRecord.configuredAs k x u c o a
    have e2 := budget_without s.bays p
    unfold State.otherAllocs at h5
    omega
  · show poolLaws s.next (((s.modBay p fun _ => BayRecord.configuredAs k x u c o a).bay p)) (s.link p)
      (((s.modBay p fun _ => BayRecord.configuredAs k x u c o a).modPool p fun q => q.applied s.next a).linkPool p)
    rw [bay_modBay, linkPool_modPool]
    refine ⟨?_, grantLaw_applied .., framesLaw_applied hal.1 hal.2 pl.2.2.1.2.1 fun f hf => ?_, ?_⟩
    · unfold allocLaw; rw [if_pos (show (BayRecord.configuredAs k x u c o a).configured = true from rfl)]; exact hal
    · rw [linkPool_modBay, f0] at hf; exact absurd hf (by simp)
    · have m := pl.2.2.2
      unfold linkLaw at *
      rw [s0] at m
      exact ⟨fun _ => ⟨f0, rfl⟩, m.2⟩
  · show latchLaw _ ((s.modBay p fun _ => BayRecord.configuredAs k x u c o a).bay p) (s.tripState p)
    exact latchLaw_clear ll h1'

theorem lawful_askConfigureBay {s : State} (b k x u c o a : Nat) (h : s.lawful) : (askConfigureBay b k x u c o a s).state.lawful := by
  unfold askConfigureBay
  repeat' split
  all_goals first | exact h | exact lawful_configure _ _ _ _ _ _ _ h

/-! ### REALLOCATE -/

theorem budget_setAlloc {s : State} (p : Pos) (a : Nat) (c : (s.bay p).configured = true) :
    budgetUsed (s.setAlloc p a).bays + (s.bay p).alloc = budgetUsed s.bays + a := by
  have e := budgetUsed_modify s.bays p fun b => { b with alloc := a }
  have c' : (s.bays.get p).configured = true := c
  have e1 : (s.bays.get p).share = (s.bay p).alloc := by unfold BayRecord.share; rw [c']; rfl
  have e2 : ({ s.bays.get p with alloc := a } : BayRecord).share = a := by
    unfold BayRecord.share; rw [if_pos (show ({ s.bays.get p with alloc := a } : BayRecord).configured = true from c')]
  rw [e1] at e
  exact e.trans (congrArg (budgetUsed s.bays + ·) e2)

theorem lawful_applyAlloc {s : State} (p : Pos) (a : Nat) (h : s.lawful) (c : (s.bay p).configured = true)
    (i : (s.link p).busy = false) (h3 : 3 ≤ a) (h64 : a ≤ 64) (bud : budgetUsed s.bays + a ≤ Config.slotCount + (s.bay p).alloc)
    (g : (s.bay p).alloc ≤ a ∨ (s.link p).state.transmits = false) : (s.applyAlloc p a).lawful := by
  obtain ⟨pl, ll⟩ := h.2.2 p
  obtain ⟨s0, _, _⟩ := poolLaws_idle pl i
  refine lawful_oneBay p h rfl rfl (fun q e => bay_modBay_other s e _) (fun _ _ => rfl)
    (fun q e => linkPool_modPool_other _ e _) (fun _ _ => rfl) ?_ ?_ ?_
  · have e := budget_setAlloc p a c
    show budgetUsed (s.setAlloc p a).bays ≤ _
    omega
  · show poolLaws s.next ((s.setAlloc p a).bay p) (s.link p) (((s.setAlloc p a).modPool p fun q => q.applied s.next a).linkPool p)
    have eb : (s.setAlloc p a).bay p = { s.bay p with alloc := a } := bay_modBay ..
    rw [eb, linkPool_modPool]
    have ep : (s.setAlloc p a).linkPool p = s.linkPool p := rfl
    rw [ep]
    refine ⟨?_, grantLaw_applied .., framesLaw_applied h3 h64 pl.2.2.1.2.1 fun f hf => ?_, ?_⟩
    · unfold allocLaw; rw [if_pos (show ({ s.bay p with alloc := a } : BayRecord).configured = true from c)]; exact ⟨h3, h64⟩
    · obtain ⟨w, w3, w64, wg, _, wn, _⟩ := poolLaws_window pl c
      have win : (f.sequence - s.next).toNat < w :=
        (inWindow (by omega) w64).1 (by rw [← wg]; exact pl.2.2.1.2.2 f hf)
      rw [wn s0] at win
      rcases g with g | g
      · exact Nat.lt_of_lt_of_le win g
      · have nh : (s.link p).mayHold = false := by
          unfold LinkRecord.mayHold
          cases hs : (s.link p).state <;> rw [hs] at g <;> simp [LinkState.transmits, LinkState.bringingUp] at g ⊢
        rw [(pl.2.2.2.1 nh).1] at hf
        exact absurd hf (by simp)
    · have m := pl.2.2.2
      unfold linkLaw at *
      rw [s0] at m
      exact ⟨fun x => ⟨(m.1 x).1, rfl⟩, m.2⟩
  · show latchLaw _ ((s.setAlloc p a).bay p) (s.tripState p)
    have eb : (s.setAlloc p a).bay p = { s.bay p with alloc := a } := bay_modBay ..
    rw [eb]; exact ll

theorem lawful_beginShrink {s : State} (p : Pos) (a : Nat) (h : s.lawful) (c : (s.bay p).configured = true)
    (i : (s.link p).busy = false) (h3 : 3 ≤ a) (lt : a < (s.bay p).alloc) (tr : (s.link p).state.transmits = true)
    (fit : (s.linkPool p).frames.length ≤ a) : (s.beginShrink p a).lawful := by
  obtain ⟨pl, ll⟩ := h.2.2 p
  obtain ⟨s0, t0, r0⟩ := poolLaws_idle pl i
  have al := poolLaws_alloc pl c
  refine lawful_oneBay p h rfl rfl (fun q e => bay_modBay_other s e _) (fun q e => link_modLink_other _ e _)
    (fun q e => linkPool_modPool_other _ e _) (fun _ _ => rfl) ?_ ?_ ?_
  · have e := budget_setAlloc p a c
    have := h.2.1
    show budgetUsed (s.setAlloc p a).bays ≤ _
    omega
  · have eb : (s.beginShrink p a).bay p = { s.bay p with alloc := a } := bay_modBay ..
    have el : (s.beginShrink p a).link p =
        { s.link p with op := { kind := .reallocate, state := .busy, result := none, wake := false } } := link_modLink ..
    have ep : (s.beginShrink p a).linkPool p = { s.linkPool p with stalled := true } := linkPool_modPool ..
    rw [eb, el, ep]
    have g := pl.2.1
    unfold grantLaw at g
    rw [if_neg (by rw [s0]; decide)] at g
    have hh : (s.linkPool p).heldSpan s.next = ((s.bay p).alloc : Nat) := (heldSpan_iff (by omega) al.2).2 g.2
    refine ⟨?_, ?_, ⟨fit, pl.2.2.1.2⟩, ?_⟩
    · unfold allocLaw; rw [if_pos (show ({ s.bay p with alloc := a } : BayRecord).configured = true from c)]
      exact ⟨h3, by show a ≤ 64; omega⟩
    · unfold grantLaw
      rw [if_pos rfl]
      show ((a : Nat) : Int) < (s.linkPool p).heldSpan s.next ∧ (s.linkPool p).heldSpan s.next ≤ (s.linkPool p).span ∧
        (s.linkPool p).span ≤ 64
      rw [hh, g.1]; omega
    · have m := pl.2.2.2
      have hold : (s.link p).mayHold = true := by
        unfold LinkRecord.mayHold
        cases hs : (s.link p).state <;> rw [hs] at tr r0 <;> simp [LinkState.transmits, LinkState.bringingUp] at tr r0 ⊢ <;> exact r0
      unfold linkLaw
      refine ⟨fun x => ?_, by simp [LinkRecord.busy], ?_, ?_, m.2.2.2.2⟩
      · have : (s.link p).mayHold = false := x
        rw [hold] at this; exact absurd this (by decide)
      · constructor
        · intro x; simp [LinkRecord.opens] at x
        · rintro ⟨x, y⟩
          have y' : (s.link p).recovery = false := y
          rw [r0 x] at y'; exact absurd y' (by decide)
      · intro x
        have : (s.link p).timer.isSome = true := x
        rw [t0] at this; exact absurd this (by simp)
  · have eb : (s.beginShrink p a).bay p = { s.bay p with alloc := a } := bay_modBay ..
    rw [eb]; exact ll

theorem lawful_reallocate {s : State} (p : Pos) (a : Nat) (k : a ≤ 64) (h : s.lawful) : (s.reallocate p a).state.lawful := by
  have d := h.1
  unfold State.reallocate
  split
  · exact h
  rename_i h1
  have c : (s.bay p).configured = true := by simpa using h1
  split
  · exact h
  rename_i h2
  have i : (s.link p).busy = false := by simpa using h2
  split
  · exact h
  split
  · exact h
  have bud := h.2.1
  have le : (s.bay p).alloc ≤ budgetUsed s.bays := by
    have := share_le s.bays p
    have c' : (s.bays.get p).configured = true := c
    unfold BayRecord.share at this
    rw [c'] at this
    exact this
  split
  · split
    · exact h
    · rename_i h3
      unfold freeBudget at h3
      exact lawful_applyAlloc p a h c i (by omega) k (by omega) (.inl (by omega))
  · split
    · rename_i h4
      exact lawful_applyAlloc p a h c i (by omega) k (by omega) (.inr (by simpa using h4))
    · split
      · exact h
      · rename_i h4 h5
        exact lawful_beginShrink p a h c i (by omega) (by omega) (by simpa using h4) (by omega)

theorem lawful_askReallocate {s : State} (b a : Nat) (h : s.lawful) : (askReallocate b a s).state.lawful := by
  unfold askReallocate
  split
  · exact h
  · split
    · exact h
    · exact lawful_reallocate _ _ (by omega) h

/-! ### OPEN_LINK, CLOSE_LINK, READ_LINK -/

theorem lawful_askOpenLink {s : State} (b e : Nat) (h : s.lawful) : (askOpenLink b e s).state.lawful := by
  unfold askOpenLink
  split
  · split
    · unfold State.openLink
      repeat' split
      all_goals first | exact h | skip
      rename_i h1 h2 h3 h4
      exact (lawly_modLink s _ fun k => poolLaws_opened k _ false (by simpa using h1) (by simpa using h3)).lawful h
    · exact h
  · exact h

theorem lawful_askCloseLink {s : State} (b d w : Nat) (h : s.lawful) : (askCloseLink b d w s).state.lawful := by
  unfold askCloseLink
  split
  · split
    · exact h
    · unfold State.closeRequest
      split
      · exact h
      · split
        · exact h
        · rename_i h2
          exact (lawly_closeLink s _ _ _ fun e => by rw [e] at h2; simpa using h2).lawful h
  · exact h

theorem lawly_askReadLink (b c : Nat) (s : State) : Lawly s (askReadLink b c s).state := by
  unfold askReadLink
  split
  · exact .ite (lawly_modLinkSame s _ rfl) (.refl s)
  · exact .refl s

/-! ### SET_SERVICE, OVERRIDE, READ_BAY -/

/-- What leaving service does once the bay's latches are cleared. -/
theorem lawly_leave (s : State) (p : Pos) (w : OrderKind → Bool) (c : CancelCause) :
    Lawly s ((((s.examineFlags.cancelOrders p w c).closeLink p false false).modLink p fun l => { l with errors := .zero }).modBay p
      BayRecord.leave) := by
  have h1 : Lawly s s.examineFlags := .same rfl
  have h2 := h1.trans (lawly_cancelOrders s.examineFlags p w c)
  have h3 := h2.trans (lawly_closeLink _ p false false nofun)
  have e : ∀ l : LinkRecord, ({ l with errors := .zero } : LinkRecord).law = l.law := fun _ => rfl
  have k : ∀ b : BayRecord, b.leave.law = b.law := fun _ => rfl
  generalize (s.examineFlags.cancelOrders p w c).closeLink p false false = t at h3
  exact (h3.trans (lawly_modLinkSame _ p (e _))).trans (lawly_modBay _ p (k _))

/-- A bay's SERVICE changed, and its trip state as the new one allows. -/
theorem lawful_service {s t : State} (p : Pos) (v : Service) (h : s.lawful) (nx : t.next = s.next) (c : t.controller = s.controller)
    (b : t.bays = s.bays.modify p fun b => { b with service := v }) (l : t.links = s.links) (k : t.pool = s.pool)
    (u : ∀ q, q ≠ p → t.tripState q = s.tripState q)
    (ll : latchLaw s.controller.protection { s.bay p with service := v } (t.tripState p)) : t.lawful := by
  have eb : t.bay p = { s.bay p with service := v } := by unfold State.bay; rw [b, Table.get_modify, if_pos rfl]
  have el : ∀ q, t.link q = s.link q := fun q => by unfold State.link; rw [l]
  have ek : ∀ q, t.linkPool q = s.linkPool q := fun q => by unfold State.linkPool; rw [k]
  refine lawful_oneBay p h nx c (fun q e => ?_) (fun q _ => el q) (fun q _ => ek q) u ?_ ?_ ?_
  · unfold State.bay; rw [b, Table.get_modify, if_neg e]
  · rw [b]
    have e : budgetUsed (s.bays.modify p fun b => { b with service := v }) + (s.bays.get p).share =
        budgetUsed s.bays + (s.bays.get p).share := budgetUsed_modify s.bays p fun b => { b with service := v }
    have := h.2.1
    omega
  · rw [eb, el, ek]; exact (h.2.2 p).1
  · rw [eb]; exact ll

/-- A bay that is not TIMING holds nothing once it has left service. -/
theorem latchLaw_leave {v : Protection} {b : BayRecord} {t : TripState} (h : t.timing = false) : latchLaw v b t.leave := by
  unfold TripState.timing at h
  have t1 : t.bf ≠ .timing := by simpa using h
  have t2 : t.leave.bf = .idle := by
    unfold TripState.leave TripState.forgive
    split
    · rfl
    · rename_i n
      show t.bf = .idle
      cases hb : t.bf
      · rfl
      · exact absurd hb t1
      · exact absurd hb n
  refine ⟨fun x => ?_, fun x => absurd t2 x⟩
  rcases x with x | x
  · simp [TripState.latched, TripState.leave, Latch.cleared] at x
  · exact absurd t2 x

theorem lawful_changeService {s : State} (p : Pos) (v : Service) (h : s.lawful)
    (ht : v = .outOfService → (s.tripState p).timing = false) : (s.changeService p v).lawful := by
  unfold State.changeService
  simp only
  suffices k : (if v = .outOfService then (s.modBay p fun b => { b with service := v }).leaveService p
      else (s.modBay p fun b => { b with service := v }).cancelOrders p (serviceCancels (s.bay p).service v) .service).lawful from
    Lawly.lawful (.same rfl) k
  split
  · rename_i e
    have h1 : ((s.modBay p fun b => { b with service := v }).modTrip p TripState.leave).lawful := by
      refine lawful_service p v h rfl rfl rfl rfl rfl (fun q e => tripState_modTrip_other _ e _) ?_
      rw [tripState_modTrip]
      exact latchLaw_leave (ht e)
    exact (lawly_leave _ p _ _).lawful h1
  · rename_i e
    have h1 : (s.modBay p fun b => { b with service := v }).lawful :=
      lawful_service p v h rfl rfl rfl rfl rfl (fun _ _ => rfl)
        ⟨fun x => ⟨((h.2.2 p).2.1 x).1, e⟩, (h.2.2 p).2.2⟩
    exact (lawly_cancelOrders ..).lawful h1

theorem lawful_askSetService {s : State} (b t : Nat) (h : s.lawful) : (askSetService b t s).state.lawful := by
  unfold askSetService
  split
  · unfold State.setService
    repeat' split
    all_goals first | exact h | skip
    rename_i n
    have k := lawful_changeService (s := s) _ _ h fun e => by
      cases hb : (s.tripState _).timing
      · rfl
      · exact absurd ⟨e, hb⟩ n
    show (State.moveService ..).lawful
    unfold State.moveService
    split
    · exact lawful_settle k
    · exact k
  · exact h

theorem lawly_overridden (s : State) (p : Pos) (e : Element) (f : Forcing) : Lawly s (s.overridden p e f) :=
  Lawly.trans (t := s.modBay p fun _ => (s.bay p).forced e f) (lawly_modBay s p (law_withElement ..)) (.same rfl)

theorem lawly_askOverride (b e v : Nat) (s : State) : Lawly s (askOverride b e v s).state := by
  unfold askOverride
  repeat' split
  all_goals first | exact .refl s | skip
  exact lawly_overridden ..

theorem lawly_askReadBay (b : Nat) (s : State) : Lawly s (askReadBay b s).state := by
  unfold askReadBay
  split <;> exact .refl s

/-! ### ZoneRequests.lean, SettingsStore.lean, TripUnit.lean -/

theorem lawly_askBlockZone (zs : List Nat) (s : State) : Lawly s (askBlockZone zs s).state := by
  unfold askBlockZone
  repeat' split
  all_goals first | exact .refl s | exact .same rfl

theorem lawly_clearCheckCts (s : State) : Lawly s s.clearCheckCts := .same rfl

theorem lawly_unblockZones (s : State) (zs : List BusZone) (c : Bool) : Lawly s (s.unblockZones zs c) := by
  unfold State.unblockZones
  simp only
  have h := Lawly.foldl lawly_clearCtsOf s (s.replica.ctsSet zs)
  have h' := Lawly.ite (c := (c && s.replica.checkCts) = true) (h.trans (lawly_clearCheckCts _)) h
  generalize (if (c && s.replica.checkCts) = true then _ else _) = t at h'
  exact h'.trans (.same rfl)

theorem lawly_askUnblockZone (zs : List Nat) (c : Nat) (s : State) : Lawly s (askUnblockZone zs c s).state := by
  unfold askUnblockZone
  repeat' split
  all_goals first | exact .refl s | exact lawly_unblockZones ..

theorem lawly_askStageSettings (vs : List Nat) (s : State) : Lawly s (askStageSettings vs s).state := by
  unfold askStageSettings
  repeat' split
  all_goals first | exact .refl s | exact .same rfl

theorem lawly_askSwitchSettings (s : State) : Lawly s (askSwitchSettings s).state := by
  unfold askSwitchSettings
  repeat' split
  all_goals first | exact .refl s | exact .same rfl

theorem lawly_askReadSettings (n : Nat) (s : State) : Lawly s (askReadSettings n s).state := by
  unfold askReadSettings
  split <;> exact .refl s

theorem lawly_askResetTrip (t : Nat) (s : State) : Lawly s (askResetTrip t s).state := by
  unfold askResetTrip
  split
  · exact Lawly.foldl lawly_resetIfPasses _ _
  · unfold State.resetOne
    repeat' split
    all_goals first | exact .refl s | exact lawly_resetBay ..

theorem lawly_askSendOrder (b k a : Nat) (s : State) : Lawly s (askSendOrder b k a s).state := by
  unfold askSendOrder
  split
  · split
    · unfold State.sendOrder
      split
      · exact .refl s
      · exact lawly_give ..
    · exact .refl s
  · exact .refl s

theorem lawly_askReadRecord (x i : Nat) (s : State) : Lawly s (askReadRecord x i s).state := by
  unfold askReadRecord
  split <;> exact .refl s

theorem lawly_askReleaseRecord (i : Nat) (s : State) : Lawly s (askReleaseRecord i s).state := by
  unfold askReleaseRecord
  split
  · exact .same rfl
  · exact .refl s

/-! ### Controller.lean -/

theorem lawful_askSetStation {s : State} (f d m x : Nat) (h : s.lawful) : (askSetStation f d m x s).state.lawful := by
  unfold askSetStation
  split
  · exact h
  · rename_i t e
    have dt : 2 ≤ t.depth ∧ t.depth ≤ 12 := by
      unfold stationOf at e
      split at e
      · cases e
      split at e
      · cases e
      rename_i n
      split at e
      · cases e
      split at e
      · cases e
      · cases e; show 2 ≤ d ∧ d ≤ 12; omega
    have w : (s.writeStation t).lawful := ⟨dt, h.2.1, h.2.2⟩
    split
    · exact h
    · split
      · exact h
      · show (s.setStation t).lawful
        unfold State.setStation
        split
        · exact w
        · exact lawful_settle w

theorem lawful_askStartProtection {s : State} (e : Nat) (h : s.lawful) : (askStartProtection e s).state.lawful := by
  unfold askStartProtection
  repeat' split
  · exact h
  · exact h
  · rename_i n
    have n' : s.controller.protection ≠ .running := by
      intro r; rw [r] at n; exact n (by decide)
    unfold State.start
    split
    · exact lawful_settleAfter _ (lawful_testStart
        (lawful_protection (t := s.beginStart e) h n' rfl rfl rfl rfl rfl rfl))
    · exact Lawly.lawful (s := s) (.same rfl) h

/-- A stop that passes leaves no latch and no breaker-failure record. -/
theorem lawful_stopRunning {s : State} (h : s.lawful) (ht : s.anyTiming = false) (hl : s.anyLatch = false) : s.stopRunning.lawful := by
  have cell : ∀ (f : TripState → Bool), s.trip.bays.any f = false → ∀ p, f (s.tripState p) = false := fun f hf p => by
    unfold Table.any at hf
    rw [List.any_eq_false] at hf
    have := hf (s.trip.bays.get p) (List.get_mem ..)
    exact eq_false_of_ne_true this
  refine ⟨h.1, h.2.1, fun p => ⟨(h.2.2 p).1, ?_⟩⟩
  have et : s.stopRunning.tripState p = (s.tripState p).forgive := by
    show (s.trip.bays.map TripState.forgive).get p = _
    rw [Table.get_map]; rfl
  rw [et]
  have t1 := cell _ ht p
  have l1 := cell _ hl p
  have b0 : (s.tripState p).forgive.bf = .idle := by
    unfold TripState.forgive
    split
    · rfl
    · rename_i n
      cases hb : (s.tripState p).bf
      · rfl
      · unfold TripState.timing at t1; rw [hb] at t1; exact absurd t1 (by decide)
      · exact absurd hb n
  refine ⟨fun x => ?_, fun x => absurd b0 x⟩
  rcases x with x | x
  · have : (s.tripState p).forgive.latched = (s.tripState p).latched := by
      unfold TripState.forgive; split <;> rfl
    rw [this, l1] at x; exact absurd x (by decide)
  · exact absurd b0 x

theorem lawful_askStopProtection {s : State} (h : s.lawful) : (askStopProtection s).state.lawful := by
  unfold askStopProtection State.stop
  split
  · exact h
  · rename_i e
    exact lawful_settle (lawful_protection (t := s.abortStart) h (by rw [e]; decide) rfl rfl rfl rfl rfl rfl)
  · split
    · exact h
    · rename_i e
      unfold State.stopRefusal at e
      split at e
      · cases e
      · split at e
        · cases e
        · rename_i h1 h2
          exact lawful_settle (lawful_stopRunning h (by simpa using h1) (by simpa using h2))

theorem lawly_askQueryOperation (t : Nat) (s : State) : Lawly s (askQueryOperation t s).state := by
  unfold askQueryOperation
  repeat' split
  all_goals exact .refl s

/-! ### Resets -/

theorem latchLaw_none {v : Protection} {b : BayRecord} {t : TripState} (l : t.latched = false) (f : t.bf = .idle) : latchLaw v b t :=
  ⟨fun x => by
    rcases x with x | x
    · rw [l] at x; exact absurd x (by decide)
    · exact absurd f x, fun x => absurd f x⟩

/-- A bay whose link and pool are as after a reset. -/
theorem poolLaws_reset {n : Seq} {b : BayRecord} {q : LinkPool} (a : if b.configured = true then 3 ≤ b.alloc ∧ b.alloc ≤ 64 else b.alloc = 0)
    (e : q = { span := b.alloc, grant := grantFor n b.alloc, stalled := false, frames := [] }) : poolLaws n b .reset q := by
  subst e
  refine ⟨?_, ?_, ⟨Nat.zero_le _, rfl, fun f hf => absurd hf (by simp)⟩, linkLaw_quiet (.inl rfl) rfl rfl rfl rfl⟩
  · unfold allocLaw
    split
    · rename_i c; rwa [if_pos c] at a
    · rename_i c; rw [if_neg c] at a; exact ⟨a, rfl⟩
  · unfold grantLaw; simp

theorem lawful_restartBlocks {s : State} (d : 2 ≤ s.depth ∧ s.depth ≤ 12) (b : budgetUsed s.bays ≤ Config.slotCount)
    (a : ∀ p, if (s.bay p).configured = true then 3 ≤ (s.bay p).alloc ∧ (s.bay p).alloc ≤ 64 else (s.bay p).alloc = 0) :
    s.restartBlocks.lawful := by
  have eb : ∀ p, s.restartBlocks.bay p = (s.bay p).clearObserved := fun p => by
    show (s.bays.map BayRecord.clearObserved).get p = _
    rw [Table.get_map]; rfl
  refine ⟨d, ?_, fun p => ⟨?_, ?_⟩⟩
  · have e : budgetUsed s.restartBlocks.bays = budgetUsed s.bays := budgetUsed_same fun p => by
      show (s.restartBlocks.bay p).share = _
      rw [eb]; rfl
    rw [e]; exact b
  · rw [eb]
    have el : s.restartBlocks.link p = .reset := by
      show (Table.replicate LinkRecord.reset).get p = _
      rw [Table.get_replicate]
    rw [el]
    refine poolLaws_reset (a p) ?_
    show (poolRestarted s.bays s.clock.current).get p = _
    unfold poolRestarted
    rw [Table.get_map]; rfl
  · have et : s.restartBlocks.tripState p = (s.tripState p).restarted := by
      show (s.trip.bays.map TripState.restarted).get p = _
      rw [Table.get_map]; rfl
    rw [et]
    exact latchLaw_none rfl rfl

theorem bays_abortAll (s : State) : s.abortAll.bays = s.bays ∧ s.abortAll.controller.station = s.controller.station := by
  have b : (allPos.foldl State.abortLinkOp s).bays = s.bays := foldl_same (fun t p => (only_abortLinkOp t p).bays) _ _
  have c : (allPos.foldl State.abortLinkOp s).controller = s.controller := foldl_same (fun t p => (only_abortLinkOp t p).controller) _ _
  unfold State.abortAll
  generalize allPos.foldl State.abortLinkOp s = t at b c
  simp only
  split
  · exact ⟨b, show t.controller.station = _ from congrArg Controller.station c⟩
  · exact ⟨b, congrArg Controller.station c⟩

theorem lawful_warmRestart {s : State} (h : s.lawful) : s.warmRestart.lawful := by
  obtain ⟨b, c⟩ := bays_abortAll s
  refine lawful_restartBlocks (by unfold State.depth; rw [c]; exact h.1) (by rw [b]; exact h.2.1) fun p => ?_
  unfold State.bay
  rw [b]
  have := (h.2.2 p).1.1
  unfold allocLaw State.bay at this
  split
  · rename_i e; rwa [if_pos e] at this
  · rename_i e; rw [if_neg e] at this; exact this.1

theorem lawful_powerOn (r1 r0 : Bool) (cs : List Instr) : (State.powerOn r1 r0 cs).lawful := by
  have eb : ∀ p, (State.powerOn r1 r0 cs).bay p = .reset := fun p => Table.get_replicate ..
  refine ⟨(by decide : 2 ≤ Controller.reset.station.depth ∧ Controller.reset.station.depth ≤ 12), show budgetUsed (Table.replicate BayRecord.reset) ≤ Config.slotCount by decide, fun p => ⟨?_, ?_⟩⟩
  · rw [eb, show (State.powerOn r1 r0 cs).link p = .reset from Table.get_replicate ..,
      show (State.powerOn r1 r0 cs).linkPool p = .reset from Table.get_replicate ..]
    exact poolLaws_reset rfl rfl
  · rw [show (State.powerOn r1 r0 cs).tripState p = .reset from Table.get_replicate ..]
    exact latchLaw_none rfl rfl

theorem lawly_holdReset (s : State) : Lawly s s.holdReset := by
  refine ⟨rfl, rfl, rfl, fun _ => rfl, fun p => ?_, fun _ => id⟩
  have e : (s.holdReset.link p).law = (s.link p).law := by
    show ((s.links.map fun l : LinkRecord => { l with lane := none }).get p).law = _
    rw [Table.get_map]; rfl
  exact poolLaws_congr rfl e

/-! ### MessagePort.lean -/

theorem lawly_port (s : State) (q : Port) : Lawly s { s with port := q } := .same rfl

theorem lawly_askIdentify (c : Nat) (s : State) : Lawly s (askIdentify c s).state := by
  unfold askIdentify
  split
  · exact .refl s
  · exact .ite (.same rfl) (.refl s)

theorem lawly_askFetchNotices (r : Nat) (s : State) : Lawly s (askFetchNotices r s).state := by
  unfold askFetchNotices
  split
  · exact .refl s
  · exact .same rfl

theorem lawly_askSwitch (c : Nat) (s : State) : Lawly s (askSwitch c s).state := by
  unfold askSwitch
  split
  · exact .refl s
  · exact lawly_askSwitchSettings s
  · exact .same rfl

theorem lawful_ownerOf (k : Nat) (ns : List Nat) (work : State → Answer) (e : ownerOf k ns = .owner work) {s : State} (h : s.lawful) :
    (work s).state.lawful := by
  unfold ownerOf at e
  split at e <;> cases e
  · exact (lawly_askIdentify ..).lawful h
  · exact (lawly_askFetchNotices ..).lawful h
  · exact lawful_askSetStation _ _ _ _ h
  · exact lawful_askStartProtection _ h
  · exact lawful_askStopProtection h
  · exact (Lawly.refl s).lawful h
  · exact (lawly_askQueryOperation ..).lawful h
  · exact lawful_askConfigureBay _ _ _ _ _ _ _ h
  · exact lawful_askSetService _ _ h
  · exact (lawly_askOverride ..).lawful h
  · exact (lawly_askReadBay ..).lawful h
  · exact (Lawly.refl s).lawful h
  · exact (Lawly.refl s).lawful h
  · exact lawful_askOpenLink _ _ h
  · exact lawful_askCloseLink _ _ _ h
  · exact (lawly_askReadLink ..).lawful h
  · exact lawful_askReallocate _ _ h
  · exact (lawly_askStageSettings ..).lawful h
  · exact (lawly_askSwitch ..).lawful h
  · exact (lawly_askReadSettings ..).lawful h
  · exact (lawly_askSendOrder ..).lawful h
  · exact (lawly_askResetTrip ..).lawful h
  · exact (lawly_askReadRecord ..).lawful h
  · exact (lawly_askReleaseRecord ..).lawful h

theorem lawful_respond {s : State} (r : RawRequest) (h : s.lawful) : (s.respond r).state.lawful := by
  unfold State.respond
  split
  · exact h
  · exact h
  · rename_i work e
    unfold RawRequest.read at e
    split at e
    · cases e
    split at e
    · split at e
      · cases e; exact (lawly_askBlockZone ..).lawful h
      · cases e
    split at e
    · split at e
      · cases e; exact (lawly_askUnblockZone ..).lawful h
      · cases e
    split at e
    · exact lawful_ownerOf _ _ _ e h
    · cases e

theorem lawful_takeIntoWork {s : State} (r : RawRequest) (h : s.lawful) : (s.takeIntoWork r).lawful :=
  Lawly.lawful (s := (s.respond r).state) (.same rfl) (lawful_respond r h)

theorem lawful_receive {s : State} (r : RawRequest) (h : s.lawful) : (s.receive r).lawful := by
  unfold State.receive
  split
  · exact (lawly_port _ _).lawful (lawful_takeIntoWork r h)
  · split
    · exact (lawly_port s _).lawful h
    · exact Lawly.lawful (s := s) (.same rfl) h

theorem lawful_workHeld {s : State} (h : s.lawful) : s.workHeld.lawful := by
  unfold State.workHeld
  split
  · exact h
  · exact lawful_takeIntoWork _ ((lawly_port s _).lawful h)

theorem lawful_finishReply {s : State} (h : s.lawful) : s.finishReply.lawful := by
  unfold State.finishReply
  split
  · exact h
  · split
    · exact Lawly.lawful (s := s) (.same rfl) h
    · exact lawful_workHeld (Lawly.lawful (s := s) (.same rfl) h)

theorem lawful_endRestart {s : State} (h : s.lawful) : s.endRestart.lawful := by
  unfold State.endRestart
  split
  · exact h
  · split
    · exact (lawly_port _ _).lawful (lawful_workHeld (Lawly.lawful (s := s) (.same rfl) h))
    · exact h

theorem lawful_restart {s : State} (h : s.lawful) : s.restart.lawful := lawful_endRestart (lawful_warmRestart h)

/-! ### SequenceClock.lean -/

theorem lawful_changeClock {s : State} (c : Clock) (k : ClockCause) (h : s.lawful) : (s.changeClock c k).lawful := by
  unfold State.changeClock
  split
  · exact Lawly.lawful (s := s) (.same rfl) h
  · exact lawful_settleAfter s (lawful_testStart (Lawly.lawful (s := s) (.same rfl) h))

theorem lawful_tickWait {s : State} (h : s.lawful) : s.tickWait.lawful := by
  unfold State.tickWait
  split
  · rename_i e
    unfold State.startRunsOut at e
    simp only [Bool.and_eq_true, beq_iff_eq] at e
    exact lawful_protection (t := s.failStart) h (by rw [e.1]; decide) rfl rfl rfl rfl rfl rfl
  · split
    · exact Lawly.lawful (s := s) (.same rfl) h
    · exact h

theorem lawful_boundaryWork {s : State} (h : s.lawful) : s.boundaryWork.lawful := by
  have h1 : s.restartIfPending.lawful := by
    unfold State.restartIfPending
    split
    · exact lawful_restart h
    · exact h
  have h2 : s.restartIfPending.advanceClock.lawful := Lawly.lawful (s := s.restartIfPending) (.same rfl) h1
  have h3 := lawful_tickLinks ((lawly_sendFrames _).lawful h2)
  exact lawful_settle (lawful_tickWait ((lawly_tickTrips _).lawful h3))

end Sys2Proof.Machine
end

