-- ==== Sys2Proof/Laws/PerInstr.lean ====
section
/-! SUPPORT. The per-command family Fits: the request that carries a well-formed command fits a message frame. -/

namespace Sys2Proof.Machine

@[simp] theorem length_byte1 (n : Nat) : (byte1 n).length = 1 := rfl
@[simp] theorem length_byte2 (n : Nat) : (byte2 n).length = 2 := rfl

@[simp] theorem length_flatMap_byte1 (xs : List Nat) : (xs.flatMap byte1).length = xs.length := by
  induction xs with
  | nil => rfl
  | cons x xs ih => simp [List.flatMap_cons, ih]; omega

@[simp] theorem length_listOf_byte1 (xs : List Nat) : (listOf byte1 xs).length = 1 + xs.length := by
  simp [listOf]

/-- The bytes a field of this width takes, whatever its value. -/
theorem length_byteN (w n : Nat) : (byteN w n).length = (byteN w 0).length := by
  unfold byteN; split <;> rfl

/-- A body of fields is at most as long as all its fields and the surplus values. -/
theorem length_fieldBytes_le : ∀ ws vs : List Nat,
    (fieldBytes ws vs).length ≤ (ws.map fun w => (byteN w 0).length).sum + (vs.length - ws.length)
  | ws, [] => by cases ws <;> simp [fieldBytes]
  | [], v :: vs => by simp [fieldBytes]; omega
  | w :: ws, v :: vs => by
    have := length_fieldBytes_le ws vs
    have := length_byteN w v
    simp only [fieldBytes, List.length_append, List.length_cons, List.map_cons, List.sum_cons]; omega

/-- The body that carries a settings group of at most 590 values. -/
theorem length_settingsBody {vs : List Nat} (h : vs.length ≤ 590) :
    (fieldBytes settingsWidths vs).length ≤ Config.maxBody := by
  have h1 := length_fieldBytes_le settingsWidths vs
  have h2 : (settingsWidths.map fun w => (byteN w 0).length).sum = 29 := rfl
  have h3 : settingsWidths.length = 19 := rfl
  rw [h2, h3] at h1
  show _ ≤ 600
  omega

end Sys2Proof.Machine

namespace Sys2Proof.Laws.Fits

open Sys2Proof.Machine

/-- The request that carries the command has a kind number from 1 to 26 and a body of at most 600 bytes. -/
def Statement (i : Instr) : Prop :=
  i.wellFormed = true → ∀ k b, requestBody i = some (k, b) → (1 ≤ k ∧ k ≤ 26) ∧ b.length ≤ Config.maxBody

/-- A command with a body of a few bytes. -/
theorem of_body {i : Instr} {k : Nat} {b : List Byte} (h : requestBody i = some (k, b)) (hk : 1 ≤ k ∧ k ≤ 26)
    (hb : i.wellFormed = true → b.length ≤ Config.maxBody) : Statement i := by
  intro w k' b' h'
  rw [h] at h'
  cases h'
  exact ⟨hk, hb w⟩

/-- A command that is no request. -/
theorem of_none {i : Instr} (h : requestBody i = none) : Statement i := by
  intro _ k b h'
  rw [h] at h'
  cases h'

theorem identify (clear : Nat) : Statement (.identify clear) :=
  of_body rfl (by decide) fun _ => by simp [Config.maxBody]

theorem fetchNotices (rearm : Nat) : Statement (.fetchNotices rearm) :=
  of_body rfl (by decide) fun _ => by simp [Config.maxBody]

theorem setStation (frequency depth markRequired sections : Nat) : Statement (.setStation frequency depth markRequired sections) :=
  of_body rfl (by decide) fun _ => by simp [Config.maxBody]

theorem startProtection (extension : Nat) : Statement (.startProtection extension) :=
  of_body rfl (by decide) fun _ => by simp [Config.maxBody]

theorem stopProtection : Statement .stopProtection :=
  of_body rfl (by decide) fun _ => by simp [Config.maxBody]

theorem restart : Statement .restart :=
  of_body rfl (by decide) fun _ => by simp [Config.maxBody]

theorem warmRestart : Statement .warmRestart :=
  of_none rfl

theorem queryOperation (target : Nat) : Statement (.queryOperation target) :=
  of_body rfl (by decide) fun _ => by simp [Config.maxBody]

theorem configureBay (bay kind sectionNo bus scale polarity alloc : Nat) : Statement (.configureBay bay kind sectionNo bus scale polarity alloc) :=
  of_body rfl (by decide) fun _ => by simp [Config.maxBody]

theorem setService (bay target : Nat) : Statement (.setService bay target) :=
  of_body rfl (by decide) fun _ => by simp [Config.maxBody]

theorem override (bay element value : Nat) : Statement (.override bay element value) :=
  of_body rfl (by decide) fun _ => by simp [Config.maxBody]

theorem readBay (bay : Nat) : Statement (.readBay bay) :=
  of_body rfl (by decide) fun _ => by simp [Config.maxBody]

theorem blockZone (zones : List Nat) : Statement (.blockZone zones) :=
  of_body rfl (by decide) fun w => by
    simp only [Instr.wellFormed, Bool.and_eq_true, decide_eq_true_eq] at w
    simp [Config.maxBody]; omega

theorem unblockZone (zones : List Nat) (check : Nat) : Statement (.unblockZone zones check) :=
  of_body rfl (by decide) fun w => by
    simp only [Instr.wellFormed, Bool.and_eq_true, decide_eq_true_eq] at w
    simp [Config.maxBody]; omega

theorem readZone : Statement .readZone :=
  of_body rfl (by decide) fun _ => by simp [Config.maxBody]

theorem readClock : Statement .readClock :=
  of_body rfl (by decide) fun _ => by simp [Config.maxBody]

theorem openLink (bay extension : Nat) : Statement (.openLink bay extension) :=
  of_body rfl (by decide) fun _ => by simp [Config.maxBody]

theorem closeLink (bay dormant wake : Nat) : Statement (.closeLink bay dormant wake) :=
  of_body rfl (by decide) fun _ => by simp [Config.maxBody]

theorem readLink (bay clear : Nat) : Statement (.readLink bay clear) :=
  of_body rfl (by decide) fun _ => by simp [Config.maxBody]

theorem reallocate (bay alloc : Nat) : Statement (.reallocate bay alloc) :=
  of_body rfl (by decide) fun _ => by simp [Config.maxBody]

theorem stageSettings (values : List Nat) : Statement (.stageSettings values) :=
  of_body rfl (by decide) fun w => by
    simp only [Instr.wellFormed, settingsFit, Bool.and_eq_true, decide_eq_true_eq] at w
    exact length_settingsBody w.2

theorem switchSettings : Statement .switchSettings :=
  of_body rfl (by decide) fun _ => by simp [Config.maxBody]

theorem switchSettingsCancel : Statement .switchSettingsCancel :=
  of_body rfl (by decide) fun _ => by simp [Config.maxBody]

theorem readSettings (selection : Nat) : Statement (.readSettings selection) :=
  of_body rfl (by decide) fun _ => by simp [Config.maxBody]

theorem sendOrder (bay kind argument : Nat) : Statement (.sendOrder bay kind argument) :=
  of_body rfl (by decide) fun _ => by simp [Config.maxBody]

theorem resetTrip (target : Nat) : Statement (.resetTrip target) :=
  of_body rfl (by decide) fun _ => by simp [Config.maxBody]

theorem readRecord (selector id : Nat) : Statement (.readRecord selector id) :=
  of_body rfl (by decide) fun _ => by simp [Config.maxBody]

theorem releaseRecord (id : Nat) : Statement (.releaseRecord id) :=
  of_body rfl (by decide) fun _ => by simp [Config.maxBody]

theorem powerOnReset (rate1 rate0 : Bool) : Statement (.powerOnReset rate1 rate0) :=
  of_none rfl

theorem messageFrameReceived (frame : MessageFrame) : Statement (.messageFrameReceived frame) :=
  of_none rfl

theorem messageGap (next : Option Byte) : Statement (.messageGap next) :=
  of_none rfl

theorem replySent : Statement .replySent :=
  of_none rfl

theorem sampleBoundary : Statement .sampleBoundary :=
  of_none rfl

theorem mark (elapsed : Nat) (phase : Int) : Statement (.mark elapsed phase) :=
  of_none rfl

theorem missingCountRise : Statement .missingCountRise :=
  of_none rfl

theorem markTimeout : Statement .markTimeout :=
  of_none rfl

theorem frameArrival (link : Pos) (bytes : List Byte) : Statement (.frameArrival link bytes) :=
  of_none rfl

theorem wakeBringUp (link : Pos) (bytes : List Byte) : Statement (.wakeBringUp link bytes) :=
  of_none rfl

theorem linkActive (link : Pos) (bytes : List Byte) : Statement (.linkActive link bytes) :=
  of_none rfl

theorem recoveryActive (link : Pos) (bytes : List Byte) : Statement (.recoveryActive link bytes) :=
  of_none rfl

theorem bringUpFailed (link : Pos) (bytes : List Byte) : Statement (.bringUpFailed link bytes) :=
  of_none rfl

theorem bringUpTimeout (link : Pos) : Statement (.bringUpTimeout link) :=
  of_none rfl

theorem lockTimeout (link : Pos) : Statement (.lockTimeout link) :=
  of_none rfl

theorem linkLost (link : Pos) : Statement (.linkLost link) :=
  of_none rfl

theorem release : Statement .release :=
  of_none rfl

theorem replicaOpen (bay : Pos) (element : Element) : Statement (.replicaOpen bay element) :=
  of_none rfl

theorem isolatorStuck (bay : Pos) (element : Element) : Statement (.isolatorStuck bay element) :=
  of_none rfl

theorem breakerStuck (bay : Pos) : Statement (.breakerStuck bay) :=
  of_none rfl

theorem dataLost (bay : Pos) : Statement (.dataLost bay) :=
  of_none rfl

theorem dataRestored (bay : Pos) : Statement (.dataRestored bay) :=
  of_none rfl

theorem spanEnd (zone : BusZone) (marks : PerPhase Bool) : Statement (.spanEnd zone marks) :=
  of_none rfl

theorem evolvingFault (zone : BusZone) (normal : PerPhase Bool) : Statement (.evolvingFault zone normal) :=
  of_none rfl

theorem returnToQuiet (zone : BusZone) : Statement (.returnToQuiet zone) :=
  of_none rfl

theorem ctSupervision (zone : Option BusZone) (ids : PerPhase Nat) : Statement (.ctSupervision zone ids) :=
  of_none rfl

theorem bfCleared (bay : Pos) : Statement (.bfCleared bay) :=
  of_none rfl

theorem bfExpiry (bay : Pos) (seen : Option (PerPhase Int)) : Statement (.bfExpiry bay seen) :=
  of_none rfl

theorem drainComplete (link : Pos) : Statement (.drainComplete link) :=
  of_none rfl

theorem settingsSwitched : Statement .settingsSwitched :=
  of_none rfl

theorem tripUnconfirmed (bay : Pos) (latch : LatchKind) : Statement (.tripUnconfirmed bay latch) :=
  of_none rfl

theorem orderDone (bay : Pos) : Statement (.orderDone bay) :=
  of_none rfl

theorem orderTimeout (bay : Pos) : Statement (.orderTimeout bay) :=
  of_none rfl

theorem startSuccess : Statement .startSuccess :=
  of_none rfl

theorem startTimeout : Statement .startTimeout :=
  of_none rfl

theorem resetnAsserted : Statement .resetnAsserted :=
  of_none rfl

theorem messageFrameStart : Statement .messageFrameStart :=
  of_none rfl

theorem stopBitMissing : Statement .stopBitMissing :=
  of_none rfl

theorem bodyLengthExcess (length : Nat) : Statement (.bodyLengthExcess length) :=
  of_none rfl

end Sys2Proof.Laws.Fits
end

