-- ==== Sys2Proof/Laws/Wire.lean ====
section
/-! SUPPORT. What a request body says when it is read back (R181): one field, all fields by their widths, and a counted list. -/

namespace Sys2Proof.Machine

theorem numberOf_byte1 {n : Nat} (h : n < 256) : numberOf (byte1 n) = n := by
  simp [numberOf, byte1]; omega

theorem numberOf_byte2 {n : Nat} (h : n < 65536) : numberOf (byte2 n) = n := by
  simp [numberOf, byte2]; omega

/-- The fields written by their widths are the fields read by their widths, when there are as many fields as widths. -/
theorem readFields_fieldBytes (ws : List Nat) : ∀ vs : List Nat,
    ((vs.zip ws).all fun x => x.1 < 256 ^ x.2) = true → (∀ w ∈ ws, w = 1 ∨ w = 2) →
    readFields ws (fieldBytes ws vs) = if vs.length = ws.length then some vs else none := by
  induction ws with
  | nil => intro vs _ _; cases vs <;> simp [fieldBytes, readFields, byte1]
  | cons w ws ih =>
    intro vs h hw
    cases vs with
    | nil => rcases hw w (by simp) with rfl | rfl <;> simp [fieldBytes, readFields]
    | cons v vs =>
      simp only [List.zip_cons_cons, List.all_cons, Bool.and_eq_true, decide_eq_true_eq] at h
      have rest := ih vs h.2 (fun w hw' => hw w (by simp [hw']))
      rcases hw w (by simp) with rfl | rfl
      · simp only [fieldBytes, byteN, readFields]
        have e := numberOf_byte1 (n := v) (by simpa using h.1)
        rw [if_neg (by simp [byte1])]
        have d : List.drop 1 (byte1 v ++ fieldBytes ws vs) = fieldBytes ws vs := rfl
        have t : List.take 1 (byte1 v ++ fieldBytes ws vs) = byte1 v := rfl
        rw [d, t, rest, e]; simp
      · simp only [fieldBytes, byteN, readFields]
        have e := numberOf_byte2 (n := v) (by have := h.1; omega)
        rw [if_neg (by simp [byte2])]
        have d : List.drop 2 (byte2 v ++ fieldBytes ws vs) = fieldBytes ws vs := rfl
        have t : List.take 2 (byte2 v ++ fieldBytes ws vs) = byte2 v := rfl
        rw [d, t, rest, e]; simp

theorem bytes_of_fit (zs : List Nat) (h : zs.all fitsByte = true) : (zs.flatMap byte1).map BitVec.toNat = zs := by
  induction zs with
  | nil => rfl
  | cons z zs ih =>
    simp only [List.all_cons, Bool.and_eq_true, fitsByte, decide_eq_true_eq] at h
    rw [List.flatMap_cons, List.map_append, ih h.2]
    simp only [byte1, List.map_cons, List.map_nil, BitVec.toNat_ofNat, List.cons_append, List.nil_append]
    rw [Nat.mod_eq_of_lt (by omega)]

/-- A list with its count field is read back. -/
theorem countedList_listOf (zs : List Nat) (n : zs.length < 256) (h : zs.all fitsByte = true) :
    countedList (listOf byte1 zs) = some zs := by
  have e : ∀ l : List Nat, (l.flatMap byte1).length = l.length := by
    intro l; induction l <;> simp_all [byte1, List.flatMap_cons]
  show (if (zs.flatMap byte1).length = (BitVec.ofNat 8 zs.length).toNat then some ((zs.flatMap byte1).map BitVec.toNat) else none) = _
  rw [if_pos (by rw [e, BitVec.toNat_ofNat]; omega), bytes_of_fit zs h]

end Sys2Proof.Machine
end

