-- ==== Sys2Proof/Tests/Slice0.lean ====
section
/-! SUPPORT. The model's own tests: the smoke test of the well-formedness check, small tests of single commands, and a witness for the hypotheses of every statement. -/

namespace Sys2Proof.Tests

set_option Elab.async false

open Sys2Proof Sys2Proof.Machine Sys2Proof.Claims

/-! ### Small states -/

/-- The state a command leaves; every command answers a next state. -/
def after (c : Instr) (s : State) : State :=
  match exec c s with
  | .next t => t
  | _ => s

/-- The result code and the fields of the reply handed over last. -/
def code (s : State) : Option ResultCode := s.lastReply.map Reply.code
def fields (s : State) : Option ReplyFields := s.lastReply.map Reply.fields

/-- The subjects and details in the notice queue. -/
def posted (s : State) : List NoticeDetail := s.port.notices.map Notice.detail

/-- After reset. -/
abbrev z0 : State := State.reset

/-- Bay 1 configured as a feeder of section 1 with five slots. -/
def fed : State :=
  (z0.modBay 0 fun b => { b with configured := true, alloc := 5 }).modPool 0 fun q => { q with span := 5, grant := 4 }

/-- Its link in a state, with a last good sequence. -/
def linked (l : LinkState) (last : Option Seq) : State := fed.modLink 0 fun r => { r with state := l, lastGood := last }

/-- Bay 1 in a service. -/
def serving (v : Service) (s : State) : State := s.modBay 0 fun b => { b with service := v }

/-- A protection state. -/
def under (v : Protection) (s : State) : State := { s with controller := { s.controller with protection := v } }

/-- Bay 1 dead: both its isolators read OPEN. -/
def isolated (s : State) : State :=
  s.modBay 0 fun b =>
    { b with
      isolatorA := { b.isolatorA with derived := .opened }, isolatorB := { b.isolatorB with derived := .opened } }

/-- In service on an active link, while protection is RUNNING. -/
def duty : State := under .running (serving .inService (linked .active (some 0)))

/-- Bay 1 in the middle of a shrink from five slots to four. -/
def shrinking : State :=
  (((linked .active (some 0)).modBay 0 fun b => { b with alloc := 4 }).modPool 0 fun q => { q with stalled := true }).modLink 0 fun l =>
    { l with op := { kind := .reallocate, state := .busy, result := none, wake := false } }

/-- The trip latch of bay 1 set. -/
def latchedAt (s : State) : State := s.modTrip 0 fun t => { t with trip := { t.trip with set := true } }

/-- Breaker-failure timing of bay 1 with one release left. -/
def timing (s : State) : State :=
  (latchedAt s).modTrip 0 fun t => { t with bf := .timing, remaining := 1, cause := some .decision }

/-- Last currents of bay 1. -/
def carrying (i : Int) (s : State) : State := s.modBay 0 fun b => { b with last := some { currents := ⟨i, 0, 0⟩, sequence := 0 } }

/-- A status word: every element CLOSED, unit sound, nothing else. -/
def quietStatus : StatusWord :=
  { isolatorA := { closedIndicating := true, openIndicating := false }
    isolatorB := { closedIndicating := true, openIndicating := false }
    breaker := { closedIndicating := true, openIndicating := false }
    unitOk := true, testMode := false, bfi := false, tripSeen := false, transferSeen := false }

/-- The frame that the bytes below carry. -/
def frame (q : Seq) : StoredFrame := { sequence := q, currents := ⟨1, -1, 0⟩, status := quietStatus, echo := 0 }

/-- Bytes 2 to 18 of an upstream frame written out by the layout of R180: address 1, sequence, three currents of three bytes, the
contact pairs, the flags and the echo. -/
def content (hi lo : Byte) : List Byte :=
  [0x01, hi, lo, 0x00, 0x00, 0x01, 0xFF, 0xFF, 0xFF, 0x00, 0x00, 0x00, 0x02, 0x02, 0x02, 0x10, 0x00]

/-- The frame's bytes with their CRC. -/
def bytes (hi lo : Byte) : List Byte := content hi lo ++ byte2 (crc16 (content hi lo)).toNat

/-! ### The well-formedness check refuses an ill-formed term for each check -/

/-- One operand too large for its byte, at each request. -/
def illRequests : List Instr :=
  [.identify 256, .fetchNotices 256, .setStation 256 0 0 0, .setStation 0 256 0 0, .setStation 0 0 256 0,
   .setStation 0 0 0 256, .startProtection 256, .queryOperation 256, .configureBay 256 0 0 0 0 0 0,
   .configureBay 0 256 0 0 0 0 0, .configureBay 0 0 256 0 0 0 0, .configureBay 0 0 0 256 0 0 0,
   .configureBay 0 0 0 0 65536 0 0, .configureBay 0 0 0 0 0 256 0, .configureBay 0 0 0 0 0 0 256]

def illMore : List Instr :=
  [.setService 256 0, .setService 0 256, .override 256 0 0, .override 0 256 0, .override 0 0 256, .readBay 256,
   .blockZone [256], .blockZone (List.replicate 256 0), .unblockZone [256] 0, .unblockZone [] 256,
   .unblockZone (List.replicate 256 0) 0, .openLink 256 0, .openLink 0 256, .closeLink 256 0 0, .closeLink 0 256 0,
   .closeLink 0 0 256, .readLink 256 0, .readLink 0 256, .reallocate 256 0, .reallocate 0 256]

def illLast : List Instr :=
  [.stageSettings [65536], .stageSettings (List.replicate 19 0 ++ [256]), .stageSettings (List.replicate 591 0),
   .readSettings 256, .sendOrder 256 0 0, .sendOrder 0 256 0, .sendOrder 0 0 65536, .resetTrip 256, .readRecord 256 0,
   .readRecord 0 256, .releaseRecord 256]

def illEvents : List Instr :=
  [.messageFrameReceived { kind := 1, tag := 0, body := List.replicate 601 0, crc := 0 }, .mark 0 (-128), .mark 0 129,
   .frameArrival 0 (List.replicate 20 0), .wakeBringUp 0 [], .linkActive 0 [], .recoveryActive 0 [], .bringUpFailed 0 [],
   .isolatorStuck 0 .breaker, .ctSupervision none ⟨2147483648, 0, 0⟩, .bfExpiry 0 (some ⟨134217729, 0, 0⟩),
   .bfExpiry 0 (some ⟨0, -134217729, 0⟩), .bodyLengthExcess 600, .bodyLengthExcess 65536]

theorem test_illRequestsRefused : (illRequests.all fun i => !i.wellFormed) = true := by decide
theorem test_illMoreRefused : (illMore.all fun i => !i.wellFormed) = true := by decide +kernel
theorem test_illLastRefused : (illLast.all fun i => !i.wellFormed) = true := by decide +kernel
theorem test_illEventsRefused : (illEvents.all fun i => !i.wellFormed) = true := by decide +kernel
theorem test_boundaryOperandsAccepted :
    ([.identify 255, .configureBay 255 255 255 255 65535 255 255, .mark 0 (-127), .mark 0 128, .bodyLengthExcess 601,
      .unblockZone [] 1, .frameArrival 0 [], .bfExpiry 0 (some ⟨134217728, -134217728, 0⟩)].all Instr.wellFormed) = true := by
  decide

/-! ### Frames and bytes -/

/-- The published check value of a CRC-16 with these parameters over the ASCII digits 1 to 9. -/
theorem test_crcCheckValue : crc16 [0x31, 0x32, 0x33, 0x34, 0x35, 0x36, 0x37, 0x38, 0x39] = 0x29B1#16 := by decide +kernel
theorem test_upstreamFrameRead : classify 0 (bytes 0x12 0x34) = .good (frame 0x1234) := by decide +kernel
theorem test_upstreamFrameMisaddressed : classify 1 (bytes 0x12 0x34) = .misaddressed := by decide +kernel
theorem test_cutShortFrameIsBadCrc : classify 0 (content 0 0) = .badCrc := by decide
theorem test_downstreamFrameWritten :
    ({ address := 3, sequence := 0x0102, grant := 0x0304, trip := true, transferTrip := false
       order := some { kind := .enterTest, tag := 7, argument := 0x0506 } } : DownFrame).content =
      [3, 1, 2, 3, 4, 2, 3, 7, 5, 6] := by decide
theorem test_identifyFrame :
    requestFrame 9 (.identify 1) = some { kind := 1, tag := 9, body := [1], crc := crc16 [0, 1, 1, 9, 1] } := by decide +kernel

/-! ### Single commands -/

theorem test_identify : code (after (.identify 2) z0) = some .badValue := by decide
theorem test_fetchNotices : (after (.fetchNotices 1) (z0.post { subject := .device, detail := .checkUnblocked })).port.attn = false := by
  decide +kernel
theorem test_setStation :
    (after (.setStation 60 12 1 2) z0).controller.station = { frequency := .hz60, depth := 12, markRequired := true, twoSections := true } ∧
      (after (.setStation 60 12 1 2) z0).replica.existing = [.a1, .b1, .a2, .b2] := by decide +kernel
theorem test_startProtection : posted (after (.startProtection 0) z0) = [.startDone .noFeeder] := by decide +kernel
theorem test_startProtection_runs :
    (after (.startProtection 0) (serving .inService (linked .active none))).controller.protection = .running := by decide +kernel
theorem test_stopProtection : (after .stopProtection duty).controller.protection = .halted := by decide +kernel
theorem test_restart : (after .restart z0).controller.restartPending = true := by decide +kernel
theorem test_warmRestart :
    (after .warmRestart duty).link 0 = .reset ∧ ((after .warmRestart duty).bay 0).service = .inService := by decide +kernel
theorem test_queryOperation : code (after (.queryOperation 25) z0) = some .badValue := by decide
theorem test_configureBay :
    ((after (.configureBay 1 0 1 0 1024 0 5) z0).bay 0).configured = true ∧
      ((after (.configureBay 1 0 1 0 1024 0 5) z0).linkPool 0).grant = 4 := by decide +kernel
theorem test_configureBay_noPool :
    fields (after (.configureBay 24 0 1 0 1024 0 64)
      { z0 with bays := (Table.replicate { BayRecord.reset with configured := true, alloc := 22 }) }) = some (.freeBudget 6) := by
  decide +kernel
theorem test_setService : ((after (.setService 1 2) (isolated fed)).bay 0).service = .inService := by decide +kernel
theorem test_setService_notDead : code (after (.setService 1 2) fed) = some .notDead := by decide +kernel
theorem test_override : fields (after (.override 1 0 1) fed) = some (.replica .opened) := by decide +kernel
theorem test_readBay : code (after (.readBay 24) z0) = some .ok := by decide +kernel
theorem test_blockZone : (after (.blockZone [0]) z0).replica.busZones.map BusZoneRecord.host = [true, false] := by decide +kernel
theorem test_blockZone_unknown : fields (after (.blockZone [2]) z0) = some (.zone .a2) := by decide +kernel
theorem test_unblockZone :
    (after (.unblockZone [0] 0) (after (.blockZone [0, 1]) z0)).replica.busZones.map BusZoneRecord.host = [false, true] := by
  decide +kernel
theorem test_readZone : fields (after .readZone z0) = some (.zones .halted none .default [] none) := by decide +kernel
theorem test_readClock : fields (after .readClock z0) = some (.clock .reset .hz50 0 4 0) := by decide +kernel
theorem test_openLink :
    ((after (.openLink 1 2) fed).link 0).timer = some 5760 ∧ ((after (.openLink 1 2) fed).link 0).state = .hunt := by decide +kernel
theorem test_closeLink : posted (after (.closeLink 1 0 0) (after (.openLink 1 0) fed)) = [.linkOpDone .openLink .aborted false] := by
  decide +kernel
theorem test_readLink :
    ((after (.readLink 1 1) (fed.countError 0 .crc)).link 0).errors = .zero := by decide +kernel
theorem test_reallocate : (after (.reallocate 1 8) fed).linkPool 0 = { span := 8, grant := 7, stalled := false, frames := [] } := by
  decide +kernel
theorem test_stageSettings :
    (after (.stageSettings (Settings.default.toList.map Prod.snd)) z0).settings.stagedValid = true := by decide +kernel
theorem test_stageSettings_invalid :
    (after (.stageSettings ((Settings.default.toList.map Prod.snd).set 0 99)) z0).settings.firstInvalid = some .idmin := by
  decide +kernel
theorem test_switchSettings : code (after .switchSettings z0) = some .noStaged := by decide +kernel
theorem test_switchSettingsCancel : fields (after .switchSettingsCancel z0) = some (.switchPending false) := by decide +kernel
theorem test_readSettings : code (after (.readSettings 2) z0) = some .badValue := by decide +kernel
theorem test_sendOrder : fields (after (.sendOrder 1 1 77) (linked .active none)) = some (.tag 1) := by decide +kernel
theorem test_resetTrip : ((after (.resetTrip 1) (latchedAt (carrying 199 fed))).tripState 0).trip.set = false := by decide +kernel
/-- With ALL, a bay with current flowing keeps its latch and is listed as refused. -/
theorem test_resetTrip_all :
    fields (after (.resetTrip 0) (latchedAt (carrying 200 fed))) = some (.resetAll [] [(0, .currentFlowing)]) ∧
      ((after (.resetTrip 0) (latchedAt (carrying 200 fed))).tripState 0).trip.set = true ∧
      fields (after (.resetTrip 0) (latchedAt (carrying 199 fed))) = some (.resetAll [0] []) := by decide +kernel
theorem test_resetTrip_currentFlowing : code (after (.resetTrip 1) (latchedAt (carrying 200 fed))) = some .currentFlowing := by
  decide +kernel
theorem test_readRecord : code (after (.readRecord 0 0) z0) = some .noRecord := by decide +kernel
theorem test_releaseRecord : code (after (.releaseRecord 0) z0) = some .noRecord := by decide +kernel
theorem test_powerOnReset : (after (.powerOnReset true false) duty).port.rate = 921600 := by decide +kernel
theorem test_resetnAsserted : after (.identify 0) (after .resetnAsserted z0) = after .resetnAsserted z0 := by decide +kernel
theorem test_messageFrameReceived :
    (after (.messageFrameReceived { kind := 1, tag := 9, body := [0], crc := crc16 [0, 1, 1, 9, 0] }) z0).port.sending.isSome = true := by
  decide +kernel
theorem test_messageFrameReceived_badCrc :
    (after (.messageFrameReceived { kind := 1, tag := 9, body := [0], crc := 0 }) z0).port.crc = 1 := by decide +kernel
theorem test_replySent :
    (after .replySent
      (after (.messageFrameReceived { kind := 1, tag := 9, body := [0], crc := crc16 [0, 1, 1, 9, 0] }) z0)).port.current = none := by
  decide +kernel
theorem test_messageFrameStart : (after .messageFrameStart z0).port.inside = true := by decide
theorem test_messageGap : (after (.messageGap (some 0x5B)) (after .messageFrameStart z0)).port.gap = 1 := by decide
theorem test_stopBitMissing : (after .stopBitMissing (after .messageFrameStart z0)).port.framing = 1 := by decide
theorem test_bodyLengthExcess : (after (.bodyLengthExcess 601) (after .messageFrameStart z0)).port.length = 1 := by decide
theorem test_sampleBoundary : (after .sampleBoundary z0).clock.current = 1 ∧ (after .sampleBoundary z0).next = 0 := by decide +kernel
theorem test_sampleBoundary_deadline :
    (after .sampleBoundary { z0 with clock := { z0.clock with current := 3 } }).next = 1 := by decide +kernel
theorem test_mark :
    (after (.mark 1000000000 5) { z0 with clock := { z0.clock with marked := true, regularRun := 2 } }).clock.state = .locked := by
  decide +kernel
/-- In STARTING with MARK_REQUIRED, the mark that locks the clock posts CLOCK_STATE and ends the start. -/
theorem test_mark_endsStart :
    posted (after (.mark 1000000000 5)
      { z0 with
        clock := { z0.clock with marked := true, regularRun := 2 }
        controller :=
          { z0.controller with
            protection := .starting, waitTimer := some 9, station := { z0.controller.station with markRequired := true } } }) =
      [.clockState .free .locked .regularMarks 1 0 5, .startDone .ok] := by decide +kernel
theorem test_missingCountRise : (after .missingCountRise { z0 with clock := { z0.clock with marked := true } }).clock.missing = 1 := by
  decide +kernel
theorem test_markTimeout :
    (after .markTimeout { z0 with clock := { z0.clock with state := .locked } }).clock.state = .holdover := by decide +kernel
theorem test_frameArrival : ((after (.frameArrival 0 (bytes 0 1)) (linked .active (some 0))).linkPool 0).frames = [frame 1] := by
  decide +kernel
theorem test_frameArrival_hunt : ((after (.frameArrival 0 (bytes 0 1)) (linked .hunt none)).link 0).state = .lock := by decide +kernel
theorem test_wakeBringUp :
    ((after (.wakeBringUp 0 (bytes 0 1)) ((linked .dormant none).modLink 0 fun l => { l with wakeOption := true })).link 0).state =
      .hunt := by decide +kernel
theorem test_linkActive :
    ((after (.linkActive 0 (bytes 0 1)) ((linked .measure (some 0)).modLink 0 fun l => { l with good := 31 })).link 0).state =
      .active := by decide +kernel
theorem test_recoveryActive :
    posted (after (.recoveryActive 0 (bytes 0 1))
      ((linked .measure (some 0)).modLink 0 fun l => { l with good := 31, recovery := true })) =
      [.linkActive true (some (-1)) (some (-1)) none] := by decide +kernel
theorem test_bringUpFailed : ((after (.bringUpFailed 0 (bytes 0 9)) (linked .measure (some 8))).link 0).state = .down := by
  decide +kernel
theorem test_bringUpTimeout :
    ((after (.bringUpTimeout 0) ((linked .hunt none).modLink 0 fun l => { l with timer := some 1 })).link 0).state = .down := by
  decide +kernel
theorem test_lockTimeout :
    ((after (.lockTimeout 0) ((linked .lock (some 3)).modLink 0 fun l => { l with sinceGood := 15 })).link 0).state = .hunt := by
  decide +kernel
/-- LINK_LOST sends its last good sequence and BF_FAILED its start cause without a presence byte, after the reasons and the currents. -/
theorem test_alwaysPresentFields :
    NoticeDetail.bytes (.linkLost (some 5)) = [0, 5] ∧
      NoticeDetail.bytes (.bfFailed [.absent] none (some .bfi) [] 5 none) = [1, 0, 0, 2, 0, 0, 5, 0] := by decide +kernel
/-- Set is 0 and clear 1 in the flags of BLOCK_ZONE's reply and in a latch; the remaining of a bay that is not TIMING is two bytes of 0. -/
theorem test_setClearOnTheWire :
    ReplyFields.bytes (.zoneFlags [(.a1, true, false), (.b1, false, false)] false true) = [2, 0, 1, 1, 1, 1, 1] ∧
      tripSummaryBytes ((latchedAt fed).tripSummary 0) = [1, 0, 0, 0, 0, 1, 0, 0, 0, 0, 0, 0, 0, 0, 0] := by decide +kernel
theorem test_linkLost :
    posted (after (.linkLost 0) ((linked .active (some 3)).modLink 0 fun l => { l with sinceGood := 15 })) = [.linkLost (some 3)] := by
  decide +kernel
theorem test_release :
    (after .release (duty.modPool 0 fun q => { q with frames := [frame 0] })).releaseUnit.next = 1 ∧
      ((after .release (duty.modPool 0 fun q => { q with frames := [frame 0] })).linkPool 0).frames = [] := by decide +kernel
theorem test_release_presents :
    ((after .release (duty.modPool 0 fun q => { q with frames := [frame 0] })).bay 0).last =
      some { currents := ⟨1, -1, 0⟩, sequence := 0 } := by decide +kernel
theorem test_replicaOpen :
    (((after (.replicaOpen 0 .isolatorA) (fed.modBay 0 fun b => { b with isolatorA := { b.isolatorA with debounce := 23 } })).bay
      0).element .isolatorA).derived = .opened := by decide +kernel

/-- An element of bay 1 in TRAVEL one release from the limit. -/
def travelling (e : Element) : State :=
  fed.modBay 0 fun b => b.withElement e { b.element e with contact := .travel, travel := 23999 }

theorem test_isolatorStuck : posted (after (.isolatorStuck 0 .isolatorB) (travelling .isolatorB)) = [.isolatorStuck .isolatorB 24000] := by
  decide +kernel
theorem test_breakerStuck : posted (after (.breakerStuck 0) (travelling .breaker)) = [.breakerStuck .breaker 24000] := by decide +kernel
theorem test_dataLost :
    posted (after (.dataLost 0) ((serving .inService fed).modBay 0 fun b => { b with missingRun := 3 })) = [.dataLost none] := by
  decide +kernel
theorem test_dataRestored :
    posted (after (.dataRestored 0) ((serving .inService fed).modBay 0 fun b => { b with presentRun := 15, data := true })) =
      [.dataRestored] := by decide +kernel

/-- One effective zone with a classifier. -/
def zoned (c : Classifier) (f : ClassifierState → ClassifierState) : State :=
  { z0 with zones := [{ ZoneState.fresh .a1 with classifier := f { ClassifierState.fresh with state := c } }] }

/-- Its classifier. -/
def classOf (s : State) : List Classifier := s.zones.map fun st => st.classifier.state

theorem test_spanEnd : classOf (after (.spanEnd .a1 ⟨false, false, false⟩) (zoned .onset fun c => { c with span := 5 })) = [.external] := by
  decide +kernel
theorem test_evolvingFault :
    classOf (after (.evolvingFault .a1 ⟨true, false, false⟩) (zoned .external fun c => { c with evolving := ⟨5, 0, 0⟩ })) =
      [.internal] := by decide +kernel
theorem test_returnToQuiet : classOf (after (.returnToQuiet .a1) (zoned .internal fun c => { c with quiet := 239 })) = [.quiet] := by
  decide +kernel

/-- Zone A1 with bay 1 as its member, unblocked. -/
def zoneA1 : EffZone :=
  { name := .a1, zones := [.a1], members := [⟨0, false⟩], changed := false
    reasons := { host := [], cts := [], data := [], test := [] } }

/-- Counters one release from the span on L1. -/
def nearly : CtsState := { counter := ⟨4799, 0, 0⟩, reported := ⟨false, false, false⟩ }

/-- A picture of zone A1, and the state held with it. -/
def pictured (s : State) : State :=
  { s with
    zones := [{ ZoneState.fresh .a1 with cts := nearly }]
    check := some { CheckState.fresh with cts := nearly }
    replica :=
      { s.replica with
        picture := some
          { sequence := 0, zones := [zoneA1], check := { members := [0], changed := false, cts := false, data := [] } } } }

/-- The differential currents of a standing differential on L1. -/
abbrev standingIds : PerPhase Nat := ⟨Settings.default.ctsLevel, 0, 0⟩

theorem test_ctSupervision :
    (after (.ctSupervision (some .a1) standingIds) (pictured duty)).replica.busZones.map BusZoneRecord.cts = [true, false] := by
  decide +kernel
theorem test_ctSupervision_check : (after (.ctSupervision none standingIds) (pictured duty)).replica.checkCts = true := by decide +kernel

/-- Timing with the breaker open and one release seen clear. -/
def clearing : State :=
  ((timing duty).modTrip 0 fun t => { t with clear := 1, remaining := 9 }).modBay 0 fun b =>
    { b with breaker := { b.breaker with derived := .opened } }

theorem test_bfCleared : ((after (.bfCleared 0) clearing).tripState 0).bf = .idle := by decide +kernel
theorem test_bfExpiry : ((after (.bfExpiry 0 none) (pictured (timing duty))).tripState 0).bf = .failed := by decide +kernel
theorem test_bfExpiry_transferTrip : ((after (.bfExpiry 0 none) (pictured (timing duty))).tripState 0).transfer.set = true := by
  decide +kernel

/-- A shrink of bay 1 to five slots whose grant has drained. -/
def draining : State :=
  (fed.modPool 0 fun q => { q with span := 9, stalled := true }).modLink 0 fun l =>
    { l with state := .active, op := { kind := .reallocate, state := .busy, result := none, wake := false } }

theorem test_drainComplete : posted (after (.drainComplete 0) draining) = [.linkOpDone .reallocate .ok false] := by decide +kernel

/-- RUNNING before a block boundary with a valid staged group and a switch waiting. -/
def switching : State :=
  { under .running z0 with
    releaseUnit := { next := 255, blockCounter := 0 }
    settings := { z0.settings with staged := { Settings.default with idmin := 101 }, stagedValid := true, switchPending := true } }

theorem test_settingsSwitched : (after .settingsSwitched switching).settings.active.idmin = 101 := by decide +kernel

/-- Both latches' echo timers about to run out. -/
def echoing : State :=
  fed.modTrip 0 fun t => { t with trip := { t.trip with set := true, echo := some 1 }, transfer := { t.transfer with set := true, echo := some 1 } }

theorem test_tripUnconfirmed : posted (after (.tripUnconfirmed 0 .trip) echoing) = [.tripUnconfirmed .trip 0] := by decide +kernel

/-- A ping in flight with one SP left, and a second order behind it. -/
def flying : State :=
  fed.modTrip 0 fun t =>
    { t with
      inFlight := some { order := { kind := .ping, tag := 1, argument := 7 }, timer := 1 }
      reserved := some { kind := .enterTest, tag := 2, argument := 0 }, lastTag := 2 }

theorem test_orderDone : ((after (.orderDone 0) flying).tripState 0).inFlight.map (fun f => f.order.tag) = some 2 := by decide +kernel
theorem test_orderTimeout : posted (after (.orderTimeout 0) flying) = [.orderTimeout .ping 1] := by decide +kernel

/-- STARTING with one SP of the wait timer left. -/
def starting (s : State) : State := { s with controller := { s.controller with protection := .starting, waitTimer := some 1 } }

theorem test_startSuccess : (after .startSuccess (starting z0)).controller.protection = .running := by decide +kernel
theorem test_startTimeout :
    posted (after .startTimeout (starting (serving .inService fed))) = [.startDone (.notMet [0] false)] := by decide +kernel

theorem test_emptyQueueIdles : step z0 = .next z0 := rfl
theorem test_queueInOrder :
    step { z0 with pending := [.messageFrameStart, .stopBitMissing] } =
      .next { z0 with pending := [.stopBitMissing], port := { z0.port with inside := true } } := rfl

/-! ### Each statement's hypotheses are met -/

theorem witness_StepRunsFrontCommand :
    ({ z0 with pending := [.restart, .readClock] } : State).pending = .restart :: [.readClock] := rfl
theorem witness_EmptyQueueIdles : z0.pending = [] := rfl
/-- Reset, a bay in service on an active link that holds a latch, and a link in the middle of a shrink. -/
theorem witness_EveryStepKeepsSound :
    (z0.sound ∧ z0.lawful ∧ step z0 = .next z0) ∧ (latchedAt duty).lawful ∧ shrinking.lawful := by
  refine ⟨⟨sound_powerOn false false [], lawful_powerOn false false [], rfl⟩, ?_, ?_⟩ <;>
    simp only [State.lawful, poolLaws, allocLaw, grantLaw, framesLaw, linkLaw, latchLaw] <;> decide +kernel
/-- What the commands before the reset have left is gone, and the commands that wait are kept. -/
theorem test_powerOnReset_keepsPending :
    after (.powerOnReset false false) { latchedAt duty with pending := [.readClock] } = { z0 with pending := [.readClock] } := by
  decide +kernel
theorem witness_ResetnAndPowerOnReset :
    (after .resetnAsserted z0).pins.inReset = true ∧ (∀ a b, Instr.identify 0 ≠ .powerOnReset a b) ∧
      Instr.identify 0 ≠ .resetnAsserted := by
  refine ⟨by decide, fun a b => ?_, ?_⟩ <;> intro h <;> cases h
theorem witness_IdentifyRepliesAndClears : powered z0 := rfl
theorem witness_NoticesJoinAndAreFetched : powered z0 := rfl
theorem witness_ReceiverEvents : powered z0 ∧ 600 < 601 := ⟨rfl, by decide⟩
theorem witness_FrameReceivedEntersAPlace : powered z0 := rfl
/-- Requests the port refuses: two kinds outside the list, two bodies of a wrong length, two lists of a wrong count. -/
theorem witness_PortRefusesBadRequests :
    (let r : RawRequest := { kind := 0, tag := 0, body := [] }; r.kind.toNat < 1 ∨ 26 < r.kind.toNat) ∧
      (let r : RawRequest := { kind := 27, tag := 0, body := [] }; r.kind.toNat < 1 ∨ 26 < r.kind.toNat) ∧
      (let r : RawRequest := { kind := 1, tag := 0, body := [] }
       1 ≤ r.kind.toNat ∧ r.kind.toNat ≤ 26 ∧ r.kind.toNat ≠ 12 ∧ r.kind.toNat ≠ 13 ∧
         r.body.length ≠ (bodyWidths r.kind.toNat).sum) ∧
      (let r : RawRequest := { kind := 26, tag := 0, body := [0, 0] }
       1 ≤ r.kind.toNat ∧ r.kind.toNat ≤ 26 ∧ r.kind.toNat ≠ 12 ∧ r.kind.toNat ≠ 13 ∧
         r.body.length ≠ (bodyWidths r.kind.toNat).sum) ∧
      (let r : RawRequest := { kind := 12, tag := 0, body := [2, 0] }
       r.kind.toNat = 12 ∧ r.body = 2 :: [0] ∧ [(0 : Byte)].length ≠ (2 : Byte).toNat) ∧
      (let r : RawRequest := { kind := 13, tag := 0, body := [2, 0, 1] }
       r.kind.toNat = 13 ∧ r.body = 2 :: ([0] ++ [1]) ∧ [(0 : Byte)].length ≠ (2 : Byte).toNat) ∧
      (let r : RawRequest := { kind := 12, tag := 0, body := [] }; r.kind.toNat = 12 ∧ r.body.length < 1) ∧
      (let r : RawRequest := { kind := 13, tag := 0, body := [0] }; r.kind.toNat = 13 ∧ r.body.length < 2) := by decide +kernel

/-- A port with a reply made, and one with a PORT_BUSY reply waiting. -/
def answeringPort : Port :=
  { z0.port with
    current := some { request := { kind := 1, tag := 0, body := [0] }, reply := [], restarts := false, phase := .replyMade } }
def refusingPort : Port := { z0.port with waitingBusy := some { kind := 1, tag := 0, body := [0] } }

theorem witness_ReplySentFreesItsPlace :
    powered z0 ∧ (after (.messageFrameReceived
        { kind := 1, tag := 9, body := [0], crc := crc16 [0, 1, 1, 9, 0] }) z0).port.sending ≠ none ∧
      (refusingPort.sending = none ∧ refusingPort.waitingBusy = some { kind := 1, tag := 0, body := [0] }) ∧
      answeringPort.sending = none ∧ answeringPort.waitingBusy = none ∧
      (answeringPort.current.map Place.phase) = some .replyMade := by decide +kernel
theorem witness_WireCarriesEveryRequest :
    ((Instr.identify 255).wellFormed = true ∧ Instr.identify 255 ≠ .restart ∧ requestBody (.identify 255) = some (1, [255])) ∧
      (Instr.releaseRecord 0).wellFormed = true ∧ Instr.releaseRecord 0 ≠ .restart ∧
      requestBody (.releaseRecord 0) = some (26, [0]) := by decide +kernel

/-- Bay 1 in section 2, which one section has no place for. -/
theorem witness_SetStationWritesFour :
    powered z0 ∧ (fed.modBay 0 fun b => { b with sectionNo := .two }).misplaced = some 0 := ⟨rfl, by decide +kernel⟩
theorem witness_StartProtectionBegins : powered z0 := rfl
theorem witness_StartEnds :
    (powered (starting z0) ∧ (starting z0).controller.protection = .starting ∧
      (∀ p, ((starting z0).bay p).service = .inService → ((starting z0).link p).state = .active) ∧
      ((starting z0).controller.station.markRequired = true → (starting z0).clock.state = .locked)) ∧
      (starting z0).controller.waitTimer = some 1 := by decide +kernel
theorem witness_StopProtectionByState :
    powered z0 ∧ z0.controller.protection = .halted ∧ powered (starting z0) ∧ (starting z0).controller.protection = .starting ∧
      powered duty ∧ duty.controller.protection = .running := by decide
/-- No request in work, one whose reply is made, and a RESTART whose reply has been sent. -/
theorem witness_RestartThenWarmRestart :
    powered duty ∧ duty.port.current = none ∧ (answeringPort.current.map Place.phase) = some .replyMade ∧
      ((after .replySent (after (.messageFrameReceived { kind := 6, tag := 9, body := [], crc := crc16 [0, 0, 6, 9] }) z0)).port.current.map
        Place.phase) = some .restarting := by decide +kernel
theorem witness_ReadsChangeOnlyTheReply :
    powered z0 ∧ (25 ≠ 0 ∧ bayOf 25 = none) ∧ (1 ≠ 0 ∧ bayOf 1 = some 0) ∧ (24 ≠ 0 ∧ bayOf 24 = some 23) ∧ bayOf 0 = none ∧
      1 < 2 ∧ (bayOf 1 = none ∨ 1 < 2) := by decide

/-- A feeder and a SECTION bay read from operands; and an operand outside each list. -/
theorem witness_ConfigureBayWritesTheRecord :
    (powered z0 ∧ bayOf 24 = some 23 ∧ kindOf 0 = some .feeder ∧ polarityOf 1 = some .reversed ∧
      placeOf .feeder 2 0 = .ok (.two, .a)) ∧
      (fed.modBay 0 fun b => { b with kind := .coupler }).occupant 1 .coupler .one .a = some 0 ∧
      (kindOf 2 = some .sectionBay ∧ placeOf .sectionBay 0 1 = .ok (.one, .b)) ∧ bayOf 0 = none ∧ 2 < 3 ∧ 1 < 2 ∧
      (1 ≤ 1 ∧ 0 ≠ 1 ∧ 0 ≠ 2) := by
  refine ⟨⟨rfl, by decide, rfl, rfl, rfl⟩, by decide +kernel, ⟨rfl, rfl⟩, by decide, by decide, by decide, by decide, by decide, by decide⟩
theorem witness_SetServiceMovesTheBay :
    powered fed ∧ bayOf 25 = none ∧ 2 < 3 ∧ bayOf 1 = some 0 ∧ serviceOf 2 = some .inService ∧ serviceOf 0 = some .outOfService ∧
      Service.inService ≠ .outOfService ∧ (shrinking.link 0).op.state = .busy ∧ (shrinking.link 0).op.kind = .reallocate := by
  decide +kernel
theorem witness_OverrideForcesAnElement :
    powered fed ∧ bayOf 25 = none ∧ 2 < 3 ∧ bayOf 1 = some 0 ∧ forcingOf 2 = some .forceClosed ∧ (z0.bay 0).configured = false ∧
      (fed.bay 0).configured = true ∧ elementOf 2 = some .breaker ∧ ¬ mayOverride (fed.bay 0).kind .breaker ∧
      elementOf 0 = some .isolatorA ∧ mayOverride (fed.bay 0).kind .isolatorA ∧ mayOverride .coupler .breaker ∧ 2 < 3 := by decide
theorem witness_BayRowsOfARelease :
    (powered fed ∧ (fed.bay 0).configured = true ∧ Element.isolatorA ∈ (fed.bay 0).kind.elements) ∧ (z0.bay 0).configured = false ∧
      (let s := fed.modBay 0 fun b => { b with isolatorA := { b.isolatorA with debounce := 23 } }
       ((s.bay 0).element .isolatorA).derived = .closed ∧ s.active.openDebounce ≤ ((s.bay 0).element .isolatorA).debounce + 1) ∧
      (let s := travelling .isolatorB
       ((s.bay 0).element .isolatorB).contact = .travel ∧ ((s.bay 0).element .isolatorB).stuck = false ∧
         s.active.travelLimit ≤ upTo16 ((s.bay 0).element .isolatorB).travel) ∧
      (let s := travelling .breaker
       Element.breaker ∈ (s.bay 0).kind.elements ∧ ((s.bay 0).element .breaker).contact = .travel ∧
         ((s.bay 0).element .breaker).stuck = false ∧ s.active.travelLimit ≤ upTo16 ((s.bay 0).element .breaker).travel) ∧
      (let s := (serving .inService fed).modBay 0 fun b => { b with missingRun := 3 }
       (s.bay 0).service ≠ .outOfService ∧ (s.bay 0).data = false ∧ 3 ≤ (s.bay 0).missingRun) ∧
      (let s := (serving .inService fed).modBay 0 fun b => { b with presentRun := 15, data := true }
       (s.bay 0).service ≠ .outOfService ∧ (s.bay 0).data = true ∧ 15 ≤ (s.bay 0).presentRun) := by decide +kernel

theorem witness_BlockZoneSetsHost :
    powered z0 ∧ 4 < [0, 0, 0, 0, 0].length ∧ (∃ n ∈ [4], 3 < n) ∧ [0, 3] ≠ [] ∧ [0, 3].length ≤ 4 ∧
      [0, 3] = ([.a1, .b2] : List BusZone).map zoneBit := by decide
theorem witness_UnblockZoneClearsFlags :
    (powered z0 ∧ 1 < 2 ∧ 4 < [0, 0, 0, 0, 0].length ∧ (∃ n ∈ [4], 3 < n)) ∧
      ([0] ≠ [] ∧ [0].length ≤ 4 ∧ [0] = ([.a1] : List BusZone).map zoneBit ∧
        ∀ z ∈ ([.a1] : List BusZone), z0.replica.existing.contains z = true) ∧
      (([.a2] : List BusZone).find? fun z => !z0.replica.existing.contains z) = some .a2 ∧
      (let s := after (.ctSupervision (some .a1) standingIds) (pictured duty)
       s.replica.ctsSet [.a1] = [.a1] ∧ (s.replica.picture.bind fun p => p.zoneWith .a1).isSome = true ∧ s.zones ≠ []) ∧
      (let s := after (.ctSupervision none standingIds) (pictured duty)
       s.replica.checkCts = true ∧ s.check ≠ none ∧ s.replica.ctsSet [.a1] = []) := by decide +kernel
/-- The members read at a bay's sign, and a picture whose zones and members continue the one before it. -/
theorem witness_PartitionAndMembers :
    (let s := serving .inService fed
     membersOf s.bays [.a1] = [⟨0, false⟩] ∧ (s.settlePicture 0).replica.picture.isSome = true ∧
       ((pictureOf s.replica s.bays 0).zones.map EffZone.changed) = [true] ∧
       ((pictureOf (s.settlePicture 0).replica s.bays 1).zones.map EffZone.changed) = [false]) ∧
      (fed.bay 0).service ≠ .inService ∧ ((serving .inService fed).bay 0).service = .inService ∧
      ((serving .inService fed).bay 0).kind = .feeder ∧
      ({ (serving .inService fed).bay 0 with kind := .coupler } : BayRecord).kind = .coupler ∧
      ({ (serving .inService fed).bay 0 with kind := .sectionBay } : BayRecord).kind = .sectionBay := by decide
theorem witness_BlockedStatesAreReported :
    (z0.replica.busZones.filter fun y => zoneA1.zones.contains y.zone && y.reportedBlocked != zoneA1.blocked) = [] ∧
      (let z : EffZone := { zoneA1 with reasons := { zoneA1.reasons with host := [.a1] } }
       (z0.replica.busZones.filter fun y => z.zones.contains y.zone && y.reportedBlocked != z.blocked) ≠ []) ∧
      (let c : CheckZone := { members := [0], changed := false, cts := false, data := [] }
       z0.replica.checkReported = c.blocked ∧ z0.replica.checkReported ≠ ({ c with cts := true } : CheckZone).blocked) := by
  decide +kernel

theorem witness_SampleBoundaryAdvancesTheClock : powered z0 := rfl
theorem witness_MarksMoveTheClock :
    powered z0 ∧ z0.clock.marked = false ∧ z0.clock.state ≠ .locked ∧ ({ z0.clock with state := .locked } : Clock).state = .locked ∧
      (let c : Clock := { z0.clock with marked := true, state := .holdover, missing := 58 }
       c.marked = true ∧ ¬ (c.state = .holdover ∧ 60 ≤ min (c.missing + 1) 255)) ∧
      (let c : Clock := { z0.clock with marked := true, state := .holdover, missing := 59 }
       c.marked = true ∧ c.state = .holdover ∧ 60 ≤ min (c.missing + 1) 255) := by decide
theorem witness_ReleaseWhenDue :
    powered z0 ∧ ({ z0 with clock := { z0.clock with current := 3 } } : State).releaseDue = false ∧
      ({ z0 with clock := { z0.clock with current := 4 } } : State).releaseDue = true ∧ z0.replica.picture = none ∧
      (pictured duty).replica.picture ≠ none := by decide +kernel

theorem witness_OpenLinkStartsABringUp :
    powered fed ∧ bayOf 25 = none ∧ 255 < 256 ∧ bayOf 1 = some 0 ∧ 255 ≤ 255 := by decide
/-- A close of a quiet link, of one in a bring-up, of one that is shrinking, and of one in use. -/
theorem witness_CloseLinkEmptiesTheLink :
    (powered fed ∧ bayOf 25 = none ∧ 1 < 2 ∧ bayOf 1 = some 0) ∧
      ((duty.bay 0).service = .inService ∧ duty.controller.protection ≠ .halted) ∧
      (((z0.bay 0).service ≠ .inService ∨ z0.controller.protection = .halted) ∧ (z0.bay 0).configured = false ∧
        (z0.link 0).op.state ≠ .busy) ∧
      (let s := after (.openLink 1 0) fed
       (s.bay 0).configured = true ∧ (s.link 0).op.state = .busy ∧ (s.link 0).op.kind ≠ .reallocate) ∧
      (draining.link 0).op.state = .busy ∧ (draining.link 0).op.kind = .reallocate := by decide +kernel
theorem witness_ArrivalsSearchAndLock :
    (powered fed ∧ (fed.link 0).state = .down) ∧
      ((content 0 0).length < 19 ∧ (bytes 0 1).length = 19) ∧
      (classify 0 (content 0 0) = .badCrc ∧ classify 1 (bytes 0 1) = .misaddressed) ∧
      ((linked .dormant none).link 0).state = .dormant ∧ ((linked .hunt none).link 0).state = .hunt ∧
      classify 0 (bytes 0 1) = .good (frame 1) ∧
      (let s := linked .lock (some 0); (s.link 0).state = .lock ∧ (s.link 0).lastGood = some ((frame 1).sequence - 1)) ∧
      (let s := linked .measure (some 7); (s.link 0).state = .measure ∧ (s.link 0).lastGood ≠ some ((frame 1).sequence - 1)) := by
  decide +kernel
theorem witness_ActiveArrivalIsStoredOrCounted :
    powered duty ∧ (duty.link 0).state = .active ∧ classify 0 (bytes 0 1) = .good (frame 1) := by decide +kernel

/-- A measured frame one past the last good one; `n` good frames before it, in a bring-up or in a recovery. -/
def measuring (r : Bool) (n : Nat) (last : Seq) : State :=
  (linked .measure (some last)).modLink 0 fun l => { l with good := n, recovery := r }

theorem witness_MeasurementEnds :
    (powered (measuring false 31 0) ∧ measuredFrame (measuring false 31 0) 0 (bytes 0 1) (frame 1)) ∧
      (∀ r, measuredFrame (measuring r 0 8) 0 (bytes 0 9) (frame 9) ∧
        ahead (frame 9).sequence ((measuring r 0 8).linkPool 0).grant = true ∧ ((measuring r 0 8).link 0).recovery = r) ∧
      (∀ r, let s : State := { measuring r 0 0 with clock := { z0.clock with current := 5 } }
       (s.link 0).recovery = r ∧ measuredFrame s 0 (bytes 0 1) (frame 1) ∧ ahead (frame 1).sequence (s.linkPool 0).grant = false ∧
         (s.controller.station.depth : Int) - 1 < (s.clock.current - (frame 1).sequence).toInt) ∧
      (∀ r, ahead (frame 1).sequence ((measuring r 31 0).linkPool 0).grant = false ∧
        ((measuring r 31 0).clock.current - (frame 1).sequence).toInt ≤ ((measuring r 31 0).controller.station.depth : Int) - 1 ∧
        32 ≤ ((measuring r 31 0).link 0).good + 1) ∧
      ((measuring true 30 0).link 0).good + 1 < 32 := by
  unfold measuredFrame; decide +kernel
theorem witness_DormantActivityAndWake :
    powered fed ∧ classify 0 (bytes 0 1) = .good (frame 1) ∧
      (∀ a w, let s := (linked .dormant none).modLink 0 fun l => { l with activitySeen := a, wakeOption := w }
        (s.link 0).state = .dormant ∧ (s.link 0).activitySeen = a ∧ (s.link 0).wakeOption = w) := by decide +kernel
theorem witness_LinkTimersRunOut :
    (let s := (linked .hunt none).modLink 0 fun l => { l with timer := some 1 }
     powered s ∧ (s.link 0).state = .hunt ∧ (s.link 0).timer = some 1) ∧
      (let s := (linked .lock none).modLink 0 fun l => { l with sinceGood := 15 }
       (s.link 0).state = .lock ∧ (s.link 0).sinceGood = 15) ∧
      (let s := duty.modLink 0 fun l => { l with sinceGood := 15 }
       powered s ∧ (s.link 0).state = .active ∧ (s.link 0).sinceGood = 15) := by decide +kernel
theorem witness_ErrorsAreCountedOrSuppressed :
    ((serving .maintenance fed).bay 0).service = .maintenance ∧ (fed.bay 0).service ≠ .maintenance ∧
      (let s := fed.modLink 0 fun l => { l with errors := { l.errors with crc := 63 } }
       (s.link 0).errors.get .crc < 65535 ∧ ((s.link 0).errors.get .crc + 1) % 64 = 0) ∧
      (let s := fed.modLink 0 fun l => { l with errors := { l.errors with crc := 65535 } }
       65535 ≤ (s.link 0).errors.get .crc) ∧ ((fed.link 0).errors.get .crc + 1) % 64 ≠ 0 := by decide +kernel

theorem witness_ReallocateChecksAndApplies : powered fed ∧ bayOf 0 = none ∧ bayOf 1 = some 0 := by decide
theorem witness_DrainEndsAtTheNewAllocation :
    (powered draining ∧ (draining.linkPool 0).stalled = true ∧
      ((draining.linkPool 0).grant - draining.releaseUnit.next).toInt + 1 ≤ (draining.bay 0).alloc) ∧
      (powered fed ∧ (fed.linkPool 0).stalled = false) ∧
      (let s := draining.modPool 0 fun q => { q with grant := 8 }
       (s.linkPool 0).stalled = true ∧
         ((s.bay 0).alloc : Int) < ((s.linkPool 0).grant - s.releaseUnit.next).toInt + 1) := by decide +kernel

/-- What bay 1 hands on when its frame is present. -/
def presentHand : BayHand := { BayHand.none with present := true, consumed := true, currents := ⟨2000, 0, 0⟩ }

theorem witness_SumsMarksAndWindows :
    (∀ m ∈ zoneA1.members, ((Table.replicate presentHand).get m.bay).present = true) ∧
      ¬ (∀ m ∈ zoneA1.members, ((Table.replicate BayHand.none).get m.bay).present = true) ∧
      (zoneA1.members ≠ []) ∧ ([true] : List Bool).length ≤ 2 ∧ ([true] : List Bool).length < 2 ∧ ([true, false] : List Bool).length = 2 ∧
      ([1, 2, 3] : List Nat).length < 4 ∧ ([1, 2, 3, 4] : List Nat).length = 4 := by decide +kernel
/-- A hand-off at a release, complete or not, whose reference on L1 lies `rise` below its Ir. -/
def handed (whole : Bool) (rise : Nat) : ZoneHand :=
  let r : PhaseResult := { id := 0, ir := 9000, normal := false, mark := false, count := 0, length := 0, met := false, operating := false }
  { name := .a1, changed := false, result := { complete := whole, phases := ⟨r, r, r⟩ }
    historyLength := ⟨some 4, none, none⟩, reference := ⟨some (9000 - rise), none, none⟩ }

/-- An onset at the step itself, none one below it; a span one short of its end, and at it. -/
theorem witness_ClassifierRows :
    powered z0 ∧ (handed false 0).result.complete = false ∧ (handed true 0).result.complete = true ∧
      (let g := Settings.default
       (∃ ph ref, (handed true g.onsetStep).reference.get ph = some ref ∧
         ref + g.onsetStep ≤ ((handed true g.onsetStep).result.phases.get ph).ir) ∧
       (¬ ∃ ph ref, (handed true (g.onsetStep - 1)).reference.get ph = some ref ∧
         ref + g.onsetStep ≤ ((handed true (g.onsetStep - 1)).result.phases.get ph).ir) ∧
       4 + 1 < g.onsetSpan ∧ g.onsetSpan ≤ 5 + 1) := by
  refine ⟨rfl, rfl, rfl, ⟨.l1, _, rfl, by decide⟩, ?_, by decide, by decide⟩
  rintro ⟨ph, ref, h, k⟩
  cases ph
  · exact absurd k (by cases h; decide)
  · cases h
  · cases h
theorem witness_CtSupervisionSetsCts :
    (let s := pictured duty
     let st : ZoneState := { ZoneState.fresh .a1 with cts := nearly }
     let standing := standingIds.map fun i => decide (s.active.ctsLevel ≤ i ∧ i < s.active.idmin)
     powered s ∧ s.replica.picture.map Picture.zones = some [zoneA1] ∧ s.zones.find? (fun y => y.name == st.name) = some st ∧
       ([zoneA1].find? fun y => y.name == st.name) = some zoneA1 ∧ st.classifier.state = .quiet ∧
       (st.cts.reaching s.active standing).phases = [.l1]) ∧
      (let s := pictured duty
       let c : CheckState := { CheckState.fresh with cts := nearly }
       let standing := standingIds.map fun i => decide (s.active.ctsLevel ≤ i ∧ i < s.active.czIdmin)
       s.check = some c ∧ (∀ st ∈ s.zones, st.classifier.state = .quiet) ∧ (c.cts.reaching s.active standing).phases = [.l1]) ∧
      (z0.zones.find? (fun y => y.name == (handed true 0).name)) = none ∧ z0.check = none ∧
      ((pictured duty).zones.find? (fun y => y.name == (handed true 0).name)) ≠ none := by decide +kernel

/-- Last results with all three phases operating. -/
def operating : ZoneResult :=
  let r : PhaseResult :=
    { id := 9000, ir := 9000, normal := true, mark := true, count := 8, length := 8, met := true, operating := true }
  { complete := true, phases := ⟨r, r, r⟩ }

/-- Zone A1 and the check zone both operating. -/
def tripping : State :=
  let s := pictured duty
  { s with
    zones := s.zones.map fun st => { st with eval := { st.eval with last := some operating } }
    check := s.check.map fun c => { c with last := some operating } }

/-- A swap empties the windows, and READ_ZONE shows it at once, the rest of the last results kept (R118). -/
theorem test_readZone_afterSwap :
    ((State.emptyWindows tripping).zoneEntry zoneA1).result.map (fun r => (r.phases.l1.count, r.phases.l1.length, r.phases.l1.met)) =
      some (0, 0, true) := by decide +kernel

/-- A bay that a reply always names has no presence byte; the fields of a zone that was not evaluated have theirs at 0 (R181). -/
theorem test_presenceBytes :
    (ReplyFields.misplaced 3).bytes = [4] ∧
      checkEntryBytes
        { zone := { members := [], changed := true, cts := false, data := [] }, live := false, blocked := false, result := none } =
        [0, 0, 1, 0, 0, 0, 0, 0] := by decide +kernel

/-- A decision is due there with bay 1 connected; and one that finds its latch already set. -/
theorem witness_DecisionLatchesConnectedBays :
    (tripping.zones.map fun st => (tripping.decides false zoneA1 st, st.eval.last, st.name)) = [(true, some operating, .a1)] ∧
      (tripping.check.map CheckState.last) = some (some operating) ∧ connectedBays tripping.bays [.a1] = [0] ∧
      (∀ p ∈ connectedBays tripping.bays [.a1], ((latchedAt tripping).tripState p).trip.set = true) ∧
      (1 : Pos) ∉ connectedBays tripping.bays [.a1] ∧ z0.check = none ∧
      ((tripping.bay 0).service = .inService ∧ (tripping.tripState 0).bf = .idle) ∧
      ¬ ((z0.bay 0).service = .inService ∧ (z0.tripState 0).bf = .idle) := by decide +kernel

theorem witness_LatchesAreSetAndConfirmed :
    ((latchedAt fed).tripState 0).trip.set = true ∧ (fed.tripState 0).trip.set = false := by decide +kernel
theorem witness_EchoAndOrderTimersEnd :
    powered echoing ∧ (echoing.tripState 0).trip.echo = some 1 ∧ (echoing.tripState 0).transfer.echo = some 1 ∧
      ((fed.tripState 0).latch .trip).echo = none ∧ (fed.tripState 0).inFlight = none ∧
      ((flying.tripState 0).inFlight.map Flight.timer) = some 1 ∧
      ((flying.tripState 0).inFlight.map fun f => f.order.tag) = some 1 ∧ 1 ≠ 0 := by decide +kernel
theorem witness_SendOrderFliesOrReserves :
    powered fed ∧ bayOf 25 = none ∧ 4 < 5 ∧ bayOf 1 = some 0 ∧ orderKindOf 0 = some .testTrip ∧ ¬ (1 ≤ 0 ∧ 0 ≤ 2400) ∧
      (1 ≤ 2400 ∧ 2400 ≤ 2400) ∧ orderKindOf 4 = some .resetUnit ∧ ¬ (2 ≤ 1) ∧ 1 ≤ 1 := by decide
/-- A second feeder in service on both buses beside bay 1, whose breaker-failure timing has one release left. -/
def neighboured : State := (pictured (timing duty)).modBay 1 fun b => { b with configured := true, service := .inService }

/-- A breaker seen to have failed, one seen cleared; a clear count of zero, and of one at a release that shows no clearing. -/
theorem witness_BreakerFailureTimingEnds :
    (reasonsFailed neighboured 0 none ≠ [] ∧ ((neighboured.bay 0).kind = .feeder) ∧ backTrip neighboured 0 = [zoneA1] ∧
      backTripped neighboured 0 = [1] ∧ connectedBays neighboured.bays zoneA1.zones = [0, 1] ∧
      (neighboured.tripState 1).bf = .idle) ∧
      (reasonsFailed clearing 0 (some ⟨0, 0, 0⟩) = [] ∧ (clearing.tripState 0).clear = 1) ∧
      (let s := clearing.modTrip 0 fun t => { t with remaining := 1 }
       (s.tripState 0).clear = 1 ∧ reasonsFailed s 0 none ≠ [] ∧ (s.tripState 0).remaining = 1) ∧
      (powered clearing ∧ clearing.controller.protection = .running ∧ (clearing.tripState 0).bf = .timing ∧
      (clearing.bay 0).effective .breaker = .opened ∧ 1 ≤ (clearing.tripState 0).clear) ∧
      (let s := timing duty
       powered s ∧ s.controller.protection = .running ∧ (s.tripState 0).bf = .timing ∧ (s.tripState 0).clear = 0 ∧
         (s.tripState 0).remaining = 1 ∧ (s.bay 0).effective .breaker = .closed) ∧
      (let s := clearing.modTrip 0 fun t => { t with clear := 0, remaining := 1 }
       (s.tripState 0).clear = 0 ∧ (s.tripState 0).remaining = 1 ∧ reasonsFailed s 0 (some ⟨0, 0, 0⟩) = []) := by decide +kernel
theorem witness_ResetTripClearsLatches :
    (powered fed ∧ 25 ≠ 0 ∧ bayOf 25 = none ∧ 1 ≠ 0 ∧ bayOf 1 = some 0) ∧ (z0.bay 0).configured = false ∧
      ((fed.bay 0).configured = true ∧ (fed.tripState 0).latched = false ∧ (fed.tripState 0).bf ≠ .failed) ∧
      ((latchedAt fed).tripState 0).latched = true ∧ flows (latchedAt fed) 0 = true ∧
      flows (latchedAt (carrying 200 fed)) 0 = true ∧ flows (latchedAt (carrying 199 fed)) 0 = false ∧
      ((latchedAt (carrying 199 fed)).tripState 0).bf ≠ .timing ∧ ((timing (carrying 199 fed)).tripState 0).bf = .timing ∧
      flows (timing (carrying 199 fed)) 0 = false := by decide +kernel
theorem witness_RecordsAreStoredAndReleased :
    powered z0 ∧ z0.trip.records.length < 8 ∧
      8 ≤ (List.replicate 8 ({ id := 0, cause := .differential .quiet [], zones := [], phases := [], sequence := 0
                               stamp := { count := 0, offset := 0, stale := true }, bays := [] } : TripRecord)).length := by decide

theorem witness_StageSettingsValidates :
    powered z0 ∧ ([] : List Nat).length ≠ 19 ∧ (Settings.default.toList.map Prod.snd).length = 19 := by decide
theorem witness_SwitchSettingsExchangesOrWaits : powered z0 := rfl
theorem witness_BoundarySwitchExchangesTheGroups :
    powered switching ∧ switching.releaseUnit.next.toNat % 256 = 255 ∧ switching.settings.switchPending = true ∧
      switching.controller.protection = .running ∧ (∀ p, (switching.tripState p).latched = false) ∧
      (∀ st ∈ switching.zones, st.classifier.state = .quiet) := by decide +kernel

end Sys2Proof.Tests
end

section
/-! PROOFS. What every step keeps (O4), and that reset has it (O5): one reasoning rule per kind of command, then the table of commands. -/

namespace Sys2Proof.Proofs

open Sys2Proof Sys2Proof.Machine Sys2Proof.Claims

/-! ### A request, an event -/

/-- A request's answer is its owner's state with the reply put down, or the state itself while RESETn is low. -/
theorem request_keeps {P : State → Prop} {owner : State → Answer} {s t : State} (e : request owner s = .next t) (h : P s)
    (reply : ∀ u r, P u → P { u with lastReply := r }) (work : P (owner s).state) : P t := by
  cases hr : s.pins.inReset with
  | false =>
    rw [request_on hr] at e
    cases e; exact reply _ _ work
  | true =>
    rw [request_off hr] at e
    cases e; exact h

/-- An event's answer is its work, or the state itself while RESETn is low. -/
theorem event_keeps {P : State → Prop} {work : State → State} {s t : State} (e : event work s = .next t) (h : P s)
    (done : P (work s)) : P t := by
  cases hr : s.pins.inReset with
  | false =>
    rw [event_on hr] at e
    cases e; exact done
  | true =>
    rw [event_off hr] at e
    cases e; exact h

theorem sound_request {owner : State → Answer} {s t : State} (e : request owner s = .next t) (h : s.sound)
    (k : Holds s (owner s).state) : t.sound := request_keeps e h (fun _ _ => id) (k.sound h)

theorem sound_event {work : State → State} {s t : State} (e : event work s = .next t) (h : s.sound) (k : Holds s (work s)) :
    t.sound := event_keeps e h (k.sound h)

theorem lawful_request {owner : State → Answer} {s t : State} (e : request owner s = .next t) (h : s.lawful)
    (k : (owner s).state.lawful) : t.lawful := request_keeps e h (fun _ _ => Lawly.lawful (.same rfl)) k

theorem lawful_event {work : State → State} {s t : State} (e : event work s = .next t) (h : s.lawful) (k : (work s).lawful) :
    t.lawful := event_keeps e h k

/-! ### Rows that act under their own condition -/

/-- Work done only where its condition holds. -/
theorem holds_when {s t : State} {c : Prop} [Decidable c] (k : c → Holds s t) : Holds s (if c then t else s) := by
  split
  · exact k ‹c›
  · exact .refl s

/-- Work done only where its condition holds. -/
theorem lawful_when {s t : State} {c : Prop} [Decidable c] (h : s.lawful) (k : c → t.lawful) : (if c then t else s).lawful := by
  split
  · exact k ‹c›
  · exact h

/-- The condition of BF_CLEARED and BF_EXPIRY makes the bay TIMING. -/
theorem timing_of_advances {s : State} {p : Pos} (h : s.advances p = true) : (s.tripState p).timing = true :=
  ((Bool.and_eq_true ..).mp h).2

/-- The condition of BF_EXPIRY, taken apart. -/
theorem timing_of_expiry {s : State} {p : Pos} {a b : Bool} (h : (s.advances p && a && b) = true) :
    (s.tripState p).timing = true := by
  simp only [Bool.and_eq_true] at h
  exact timing_of_advances h.1.1

/-- The condition of SETTINGS_SWITCHED, taken apart. -/
theorem pending_of_switch {a b c d : Bool} (h : (a && b && c && d) = true) : b = true := by
  simp only [Bool.and_eq_true] at h
  exact h.1.1.2

/-- A pending switch has a valid staged group, so the exchange keeps what always holds. -/
theorem keeps_exchangePending (s : State) (x : SwitchTrigger) (h : s.settings.switchPending = true) : Keeps s (s.exchange x) :=
  keeps_exchange s x fun k => k.2.1.2.2 h

theorem notices_examine (q : Port) (b : Option Byte) : (q.examine b).notices = q.notices := by
  unfold Port.examine; split <;> rfl

theorem attn_examine (q : Port) (b : Option Byte) : (q.examine b).attn = q.attn := by
  unfold Port.examine; split <;> rfl

theorem holds_replySent (s : State) (x : Sending) : Holds s
    (if x.portBusy then { s with port := { s.port with sending := none } }
      else State.finishReply { s with port := { s.port with sending := none } }).transmit :=
  have idle : Holds s { s with port := { s.port with sending := none } } := holds_portQuiet s rfl rfl
  .trans (.ite idle (idle.trans (holds_finishReply _))) (holds_transmit _)

/-! ### Every command keeps what always holds -/

theorem exec_sound {c : Instr} {s t : State} (e : exec c s = .next t) (h : s.sound) : t.sound := by
  cases c with simp only [exec] at e
  | identify c => exact sound_request e h (holds_askIdentify c s)
  | fetchNotices r => exact sound_request e h (holds_askFetchNotices r s)
  | setStation f d m x => exact sound_request e h (holds_askSetStation f d m x s)
  | startProtection x => exact sound_request e h (holds_askStartProtection x s)
  | stopProtection => exact sound_request e h (holds_askStopProtection s)
  | restart => exact sound_request e h (keeps_controller s _).holds
  | warmRestart => exact sound_event e h (holds_restart s)
  | queryOperation n => exact sound_request e h (keeps_askQueryOperation n s).holds
  | configureBay b k x u c o a => exact sound_request e h (keeps_askConfigureBay b k x u c o a s).holds
  | setService b v => exact sound_request e h (holds_askSetService b v s)
  | override b x v => exact sound_request e h (keeps_askOverride b x v s).holds
  | readBay b => exact sound_request e h (keeps_askReadBay b s).holds
  | blockZone zs => exact sound_request e h (keeps_askBlockZone zs s).holds
  | unblockZone zs c => exact sound_request e h (keeps_askUnblockZone zs c s).holds
  | readZone => exact sound_request e h (.refl s)
  | readClock => exact sound_request e h (.refl s)
  | openLink b x => exact sound_request e h (keeps_askOpenLink b x s).holds
  | closeLink b d w => exact sound_request e h (keeps_askCloseLink b d w s).holds
  | readLink b c => exact sound_request e h (keeps_askReadLink b c s).holds
  | reallocate b a => exact sound_request e h (keeps_askReallocate b a s).holds
  | stageSettings vs => exact sound_request e h (keeps_askStageSettings vs s).holds
  | switchSettings => exact sound_request e h (keeps_askSwitchSettings s).holds
  | switchSettingsCancel => exact sound_request e h (keeps_askSwitchSettingsCancel s).holds
  | readSettings n => exact sound_request e h (keeps_askReadSettings n s).holds
  | sendOrder b k a => exact sound_request e h (keeps_askSendOrder b k a s).holds
  | resetTrip n => exact sound_request e h (keeps_askResetTrip n s).holds
  | readRecord x i => exact sound_request e h (keeps_askReadRecord x i s).holds
  | releaseRecord i => exact sound_request e h (keeps_askReleaseRecord i s).holds
  | powerOnReset a b => cases e; exact sound_powerOn a b _
  | resetnAsserted => cases e; exact sound_holdReset h
  | messageFrameReceived f =>
    have hunted : Holds s { s with port := s.port.hunting } := holds_portQuiet s rfl rfl
    exact sound_event e h (hunted.trans (.ite (holds_receive ..) (holds_portQuiet _ rfl rfl)))
  | messageGap n =>
    exact sound_event e h (.ite (holds_portQuiet s (notices_examine ..) (attn_examine ..)) (.refl s))
  | messageFrameStart => exact sound_event e h (holds_portQuiet s (notices_examine ..) (attn_examine ..))
  | stopBitMissing => exact sound_event e h (.ite (holds_portQuiet s rfl rfl) (.refl s))
  | bodyLengthExcess n => exact sound_event e h (.ite (holds_portQuiet s rfl rfl) (.refl s))
  | replySent =>
    refine sound_event e h ?_
    split
    · exact .refl s
    · exact holds_replySent s _
  | sampleBoundary => exact sound_event e h (holds_boundaryWork s)
  | mark n x => exact sound_event e h (holds_changeClock s _ _)
  | missingCountRise => exact sound_event e h (.ite (holds_changeClock s _ _) (.refl s))
  | markTimeout => exact sound_event e h (.ite (holds_changeClock s _ _) (.refl s))
  | frameArrival p bs => exact sound_event e h (holds_arrival s p bs)
  | wakeBringUp p bs => exact sound_event e h (.ite (holds_arrival s p bs) (.refl s))
  | linkActive p bs => exact sound_event e h (.ite (holds_arrival s p bs) (.refl s))
  | recoveryActive p bs => exact sound_event e h (.ite (holds_arrival s p bs) (.refl s))
  | bringUpFailed p bs => exact sound_event e h (.ite (holds_arrival s p bs) (.refl s))
  | bringUpTimeout p => exact sound_event e h (.ite (keeps_failBringUp s p _).holds (.refl s))
  | lockTimeout p => exact sound_event e h (.ite (keeps_timeLock s p).holds (.refl s))
  | linkLost p => exact sound_event e h (.ite (keeps_loseSync s p).holds (.refl s))
  | release => exact sound_event e h (.ite (holds_release s) (.refl s))
  | replicaOpen p x => exact sound_event e h (.ite (keeps_modBay ..).holds (.refl s))
  | isolatorStuck p x => exact sound_event e h (.ite (.refl s) (keeps_stickElement s p x).holds)
  | breakerStuck p => exact sound_event e h (keeps_stickElement s p .breaker).holds
  | dataLost p => exact sound_event e h (.ite ((keeps_modBay ..).trans (keeps_post ..)).holds (.refl s))
  | dataRestored p => exact sound_event e h (.ite ((keeps_modBay ..).trans (keeps_post ..)).holds (.refl s))
  | spanEnd z m => exact sound_event e h (keeps_stepClassifier s z _ _).holds
  | evolvingFault z n => exact sound_event e h (keeps_stepClassifier s z _ _).holds
  | returnToQuiet z => exact sound_event e h (keeps_stepClassifier s z _ _).holds
  | ctSupervision z i =>
    cases z with
    | some z => exact sound_event e h (keeps_ctSupervisionZone s z i).holds
    | none => exact sound_event e h (keeps_ctSupervisionCheck s i).holds
  | bfCleared p => exact sound_event e h (.ite (keeps_modTrip s p sound_bfIdle).holds (.refl s))
  | bfExpiry p i => exact sound_event e h (holds_when fun c => (keeps_expire s p _ i (timing_of_expiry c)).holds)
  | drainComplete p => exact sound_event e h (keeps_drainCheck s p).holds
  | settingsSwitched => exact sound_event e h (holds_when fun c => (keeps_exchangePending s _ (pending_of_switch c)).holds)
  | tripUnconfirmed p k => exact sound_event e h (.ite (keeps_tickLatch s p k).holds (.refl s))
  | orderDone p =>
    refine sound_event e h ?_
    split
    · exact .refl s
    · exact (keeps_completeOrder s p _ _).holds
  | orderTimeout p =>
    refine sound_event e h ?_
    split
    · exact .refl s
    · exact .ite (keeps_tickOrder s p).holds (.refl s)
  | startSuccess => exact sound_event e h (.ite ((keeps_succeedStart s).holds.trans (holds_settle _)) (.refl s))
  | startTimeout => exact sound_event e h (.ite ((keeps_failStart s).holds.trans (holds_settle _)) (.refl s))

/-! ### Every command keeps the laws -/

theorem lawly_stepClassifier (s : State) (z : BusZone) (w : ClassifierState → Bool) (f : ClassifierState → ClassifierState) :
    Lawly s (s.stepClassifier z w f) := .same rfl

/-- LOCK and MEASURE are bring-ups. -/
theorem bringingUp_of_silent {l : LinkRecord} {b : Bool} (h : ((l.state == .lock || l.state == .measure) && b) = true) :
    l.state.bringingUp = true := by
  simp only [Bool.and_eq_true, Bool.or_eq_true, beq_iff_eq] at h
  rcases h.1 with e | e <;> rw [e] <;> rfl

theorem active_of_silent {l : LinkRecord} {b : Bool} (h : (l.state == .active && b) = true) : l.state = .active := by
  simp only [Bool.and_eq_true, beq_iff_eq] at h
  exact h.1

theorem lawly_openReplica (s : State) (p : Pos) (x : Element) (r : ElementRecord) :
    Lawly s (s.modBay p fun b => b.withElement x r) := lawly_modBay s p (law_withElement (s.bay p) x r)

theorem lawful_succeedStart {s : State} (h : s.lawful) (c : s.startHolds = true) : s.succeedStart.lawful := by
  have := lawful_testStart h
  rwa [State.testStart, if_pos c] at this

theorem lawful_failStart {s : State} (h : s.lawful) (c : s.startRunsOut = true) : s.failStart.lawful := by
  have := lawful_tickWait h
  rwa [State.tickWait, if_pos c] at this

/-- A bring-up timer that runs out belongs to an OPEN, so the bring-up is no recovery. -/
theorem lawful_timedOut {s : State} {p : Pos} (h : s.lawful) (c : (s.link p).runsOut = true) :
    (s.failBringUp p .timeout).lawful := by
  have := lawful_tickTimer p h
  rwa [State.tickTimer, if_pos c] at this

theorem exec_lawful {c : Instr} {s t : State} (e : exec c s = .next t) (h : s.lawful) : t.lawful := by
  cases c with simp only [exec] at e
  | identify c => exact lawful_request e h ((lawly_askIdentify c s).lawful h)
  | fetchNotices r => exact lawful_request e h ((lawly_askFetchNotices r s).lawful h)
  | setStation f d m x => exact lawful_request e h (lawful_askSetStation f d m x h)
  | startProtection x => exact lawful_request e h (lawful_askStartProtection x h)
  | stopProtection => exact lawful_request e h (lawful_askStopProtection h)
  | restart => exact lawful_request e h ((Lawly.same rfl).lawful h)
  | warmRestart => exact lawful_event e h (lawful_restart h)
  | queryOperation n => exact lawful_request e h ((lawly_askQueryOperation n s).lawful h)
  | configureBay b k x u c o a => exact lawful_request e h (lawful_askConfigureBay b k x u c o a h)
  | setService b v => exact lawful_request e h (lawful_askSetService b v h)
  | override b x v => exact lawful_request e h ((lawly_askOverride b x v s).lawful h)
  | readBay b => exact lawful_request e h ((lawly_askReadBay b s).lawful h)
  | blockZone zs => exact lawful_request e h ((lawly_askBlockZone zs s).lawful h)
  | unblockZone zs c => exact lawful_request e h ((lawly_askUnblockZone zs c s).lawful h)
  | readZone => exact lawful_request e h h
  | readClock => exact lawful_request e h h
  | openLink b x => exact lawful_request e h (lawful_askOpenLink b x h)
  | closeLink b d w => exact lawful_request e h (lawful_askCloseLink b d w h)
  | readLink b c => exact lawful_request e h ((lawly_askReadLink b c s).lawful h)
  | reallocate b a => exact lawful_request e h (lawful_askReallocate b a h)
  | stageSettings vs => exact lawful_request e h ((lawly_askStageSettings vs s).lawful h)
  | switchSettings => exact lawful_request e h ((lawly_askSwitchSettings s).lawful h)
  | switchSettingsCancel => exact lawful_request e h ((Lawly.same rfl).lawful h)
  | readSettings n => exact lawful_request e h ((lawly_askReadSettings n s).lawful h)
  | sendOrder b k a => exact lawful_request e h ((lawly_askSendOrder b k a s).lawful h)
  | resetTrip n => exact lawful_request e h ((lawly_askResetTrip n s).lawful h)
  | readRecord x i => exact lawful_request e h ((lawly_askReadRecord x i s).lawful h)
  | releaseRecord i => exact lawful_request e h ((lawly_askReleaseRecord i s).lawful h)
  | powerOnReset a b => cases e; exact lawful_powerOn a b _
  | resetnAsserted => cases e; exact (lawly_holdReset s).lawful h
  | messageFrameReceived f =>
    refine lawful_event e h ?_
    have hunted : State.lawful { s with port := s.port.hunting } := (lawly_port s _).lawful h
    dsimp only
    split
    · exact lawful_receive _ hunted
    · exact (lawly_port ..).lawful hunted
  | messageGap n => exact lawful_event e h ((Lawly.ite (lawly_port s _) (.refl s)).lawful h)
  | messageFrameStart => exact lawful_event e h ((lawly_port s _).lawful h)
  | stopBitMissing => exact lawful_event e h ((Lawly.ite (lawly_port s _) (.refl s)).lawful h)
  | bodyLengthExcess n => exact lawful_event e h ((Lawly.ite (lawly_port s _) (.refl s)).lawful h)
  | replySent =>
    refine lawful_event e h ?_
    have idle : State.lawful { s with port := { s.port with sending := none } } := (lawly_port s _).lawful h
    dsimp only
    split
    · exact h
    · refine (lawly_port _ _).lawful ?_
      split
      · exact idle
      · exact lawful_finishReply idle
  | sampleBoundary => exact lawful_event e h (lawful_boundaryWork h)
  | mark n x => exact lawful_event e h (lawful_changeClock _ _ h)
  | missingCountRise => exact lawful_event e h (lawful_when h fun _ => lawful_changeClock _ _ h)
  | markTimeout => exact lawful_event e h (lawful_when h fun _ => lawful_changeClock _ _ h)
  | frameArrival p bs => exact lawful_event e h (lawful_arrival p bs h)
  | wakeBringUp p bs => exact lawful_event e h (lawful_when h fun _ => lawful_arrival p bs h)
  | linkActive p bs => exact lawful_event e h (lawful_when h fun _ => lawful_arrival p bs h)
  | recoveryActive p bs => exact lawful_event e h (lawful_when h fun _ => lawful_arrival p bs h)
  | bringUpFailed p bs => exact lawful_event e h (lawful_when h fun _ => lawful_arrival p bs h)
  | bringUpTimeout p =>
    exact lawful_event e h (lawful_when h fun c => lawful_timedOut h c)
  | lockTimeout p =>
    exact lawful_event e h (lawful_when h fun c => (lawly_timeLock s p (bringingUp_of_silent c)).lawful h)
  | linkLost p => exact lawful_event e h (lawful_when h fun c => (lawly_loseSync s p (active_of_silent c)).lawful h)
  | release => exact lawful_event e h (lawful_when h fun _ => lawful_release h)
  | replicaOpen p x => exact lawful_event e h ((Lawly.ite (lawly_openReplica s p x _) (.refl s)).lawful h)
  | isolatorStuck p x => exact lawful_event e h ((Lawly.ite (.refl s) (lawly_stickElement s p x)).lawful h)
  | breakerStuck p => exact lawful_event e h ((lawly_stickElement s p .breaker).lawful h)
  | dataLost p => exact lawful_event e h ((Lawly.ite ((lawly_modBay s p rfl).trans (lawly_post ..)) (.refl s)).lawful h)
  | dataRestored p => exact lawful_event e h ((Lawly.ite ((lawly_modBay s p rfl).trans (lawly_post ..)) (.refl s)).lawful h)
  | spanEnd z m => exact lawful_event e h ((lawly_stepClassifier s z _ _).lawful h)
  | evolvingFault z n => exact lawful_event e h ((lawly_stepClassifier s z _ _).lawful h)
  | returnToQuiet z => exact lawful_event e h ((lawly_stepClassifier s z _ _).lawful h)
  | ctSupervision z i =>
    cases z with
    | some z => exact lawful_event e h ((lawly_ctSupervisionZone s z i).lawful h)
    | none => exact lawful_event e h ((lawly_ctSupervisionCheck s i).lawful h)
  | bfCleared p => exact lawful_event e h ((Lawly.ite (lawly_bfIdle s p) (.refl s)).lawful h)
  | bfExpiry p i =>
    exact lawful_event e h (lawful_when h fun c =>
      (lawly_expire s p _ i (timing_of_expiry c) (timing_mayLatch h (timing_of_expiry c))).lawful h)
  | drainComplete p => exact lawful_event e h (lawful_drainCheck s p h)
  | settingsSwitched => exact lawful_event e h ((Lawly.ite (lawly_exchange s _) (.refl s)).lawful h)
  | tripUnconfirmed p k => exact lawful_event e h ((Lawly.ite (lawly_tickLatch s p k) (.refl s)).lawful h)
  | orderDone p =>
    refine lawful_event e h (Lawly.lawful (s := s) ?_ h)
    split
    · exact .refl s
    · exact lawly_completeOrder s p _ _
  | orderTimeout p =>
    refine lawful_event e h (Lawly.lawful (s := s) ?_ h)
    split
    · exact .refl s
    · exact .ite (lawly_tickOrder s p) (.refl s)
  | startSuccess => exact lawful_event e h (lawful_when h fun c => lawful_settle (lawful_succeedStart h c))
  | startTimeout => exact lawful_event e h (lawful_when h fun c => lawful_settle (lawful_failStart h c))

/-! ### Every step, and the power-on state -/

theorem step_sound {s t : State} (h : s.sound) (e : step s = .next t) : t.sound := by
  unfold step at e
  split at e
  · cases e; exact h
  · exact exec_sound e h

theorem step_lawful {s t : State} (h : s.lawful) (e : step s = .next t) : t.lawful := by
  unfold step at e
  split at e
  · cases e; exact h
  · exact exec_lawful e h

/-- Settles O4, by the table of commands: each command's work keeps soundness, and each keeps the laws. -/
theorem everyStepKeepsSound : Obligations.EveryStepKeepsSound := ⟨fun _ _ => step_sound, fun _ _ => step_lawful⟩

/-- Settles O5: State.reset is the power-on state with nothing waiting. -/
theorem resetIsSound : Obligations.ResetIsSound := ⟨sound_powerOn .., lawful_powerOn ..⟩

end Sys2Proof.Proofs
end

section
/-! PROOFS. The Bay Table's own rules (O24, O25, O26): contact pairs, effective replicas, scaled currents. -/

namespace Sys2Proof.Proofs

open Sys2Proof Sys2Proof.Machine Sys2Proof.Claims

/-! ### Contact pairs and the replica (R7 to R9) -/

theorem status_of_pair (closed opened : Bool) :
    ContactPair.status { closedIndicating := closed, openIndicating := opened } =
      if closed && !opened then .closed else if !closed && opened then .opened else if !closed && !opened then .travel
      else .invalid := by
  cases closed <;> cases opened <;> rfl

/-- A consumed OPEN, the one status that counts the debounce up (R8). -/
theorem consume_opened (d : Nat) (e : ElementRecord) :
    e.consume d .opened =
      { e with
        contact := .opened, travel := 0, stuck := false
        derived := if d ≤ e.debounce + 1 then .opened else e.derived
        debounce := if d ≤ e.debounce + 1 then d else e.debounce + 1 } := by
  by_cases reaches : d ≤ e.debounce + 1
  · simp [ElementRecord.consume, reaches]
  · simp [ElementRecord.consume, reaches]

/-- Settles O24, status by status. -/
theorem contactsMoveTheReplica : Obligations.ContactsMoveTheReplica :=
  ⟨status_of_pair, fun d e => ⟨rfl, rfl, rfl, consume_opened d e⟩⟩

/-! ### Effective replicas and the dead-bay test (R11, R12) -/

theorem overridable_iff (k : BayKind) (e : Element) : k.overridable e = true ↔ mayOverride k e := by
  cases k <;> cases e <;> decide

/-- The effective replica as R12 words it: the override in force on an element that may be overridden, else the derived replica. -/
theorem effective_eq (b : BayRecord) (e : Element) :
    b.effective e =
      if mayOverride b.kind e ∧ (b.element e).forcing = .forceOpen then .opened
      else if mayOverride b.kind e ∧ (b.element e).forcing = .forceClosed then .closed
      else (b.element e).derived := by
  by_cases may : mayOverride b.kind e
  · rw [BayRecord.effective, if_pos ((overridable_iff ..).mpr may)]
    cases hf : (b.element e).forcing <;> simp [may]
  · rw [BayRecord.effective, if_neg (mt (overridable_iff ..).mp may)]
    simp [may]

theorem not_shut_iff (b : BayRecord) (e : Element) : (!b.shut e) = true ↔ b.effective e = .opened := by
  unfold BayRecord.shut
  cases b.effective e <;> decide

theorem dead_iff (b : BayRecord) :
    b.dead = true ↔
      if b.kind = .feeder then b.effective .isolatorA = .opened ∧ b.effective .isolatorB = .opened
      else b.effective .breaker = .opened := by
  unfold BayRecord.dead
  cases hk : b.kind <;> simp [BayKind.membership, ← not_shut_iff]

/-- Settles O25: the two definitions of R12 in the rule's own words. -/
theorem deadBayByEffectiveReplicas : Obligations.DeadBayByEffectiveReplicas := fun b => ⟨effective_eq b, dead_iff b⟩

/-! ### Currents (R6) -/

/-- Truncation toward zero makes the REVERSED current the exact negative of the NORMAL one. -/
theorem scaled_reversed (c : Nat) (x : Int) : scaled .reversed c x = -scaled .normal c x := by
  simp only [scaled, Int.neg_mul, Int.neg_tdiv]

/-- Settles O26: truncation commutes with the sign, and only UNIT_OK replaces the last currents. -/
theorem currentsAreScaled : Obligations.CurrentsAreScaled :=
  ⟨fun c x => ⟨rfl, scaled_reversed c x⟩, fun _ _ _ => rfl⟩

end Sys2Proof.Proofs
end

section
/-! PROOFS. The reading requests (O20), CONFIGURE_BAY (O21) and OVERRIDE (O23): a request's answer as the state it leaves. -/

namespace Sys2Proof.Proofs

open Sys2Proof Sys2Proof.Machine Sys2Proof.Claims

/-! ### A request's answer, handed to the Message Port -/

/-- The state that an answer leaves, with its reply handed to the Message Port. -/
def handed (a : Answer) : State := { a.state with lastReply := some a.reply }

theorem handed_answer (s : State) (c : ResultCode) (f : ReplyFields) : handed (s.answer c f) = answered s c f := rfl

theorem request_handed {owner : State → Answer} {s : State} (h : powered s) : request owner s = .next (handed (owner s)) :=
  request_on h

/-- A request whose owner answers so. -/
theorem request_answers {owner : State → Answer} {s u : State} {c : ResultCode} {f : ReplyFields} (h : powered s)
    (e : owner s = u.answer c f) : request owner s = .next (answered u c f) := by
  rw [request_handed h, e]; rfl

/-! ### Named values outside their lists -/

theorem yesNo_none {n : Nat} (h : 1 < n) : yesNo n = none := by
  obtain ⟨_, rfl⟩ := Nat.exists_eq_add_of_le' h
  rfl

theorem kindOf_none {n : Nat} (h : 2 < n) : kindOf n = none := by
  obtain ⟨_, rfl⟩ := Nat.exists_eq_add_of_le' h
  rfl

theorem polarityOf_none {n : Nat} (h : 1 < n) : polarityOf n = none := by
  obtain ⟨_, rfl⟩ := Nat.exists_eq_add_of_le' h
  rfl

theorem busOf_none {n : Nat} (h : 1 < n) : busOf n = none := by
  obtain ⟨_, rfl⟩ := Nat.exists_eq_add_of_le' h
  rfl

theorem serviceOf_none {n : Nat} (h : 2 < n) : serviceOf n = none := by
  obtain ⟨_, rfl⟩ := Nat.exists_eq_add_of_le' h
  rfl

theorem forcingOf_none {n : Nat} (h : 2 < n) : forcingOf n = none := by
  obtain ⟨_, rfl⟩ := Nat.exists_eq_add_of_le' h
  rfl

theorem elementOf_none {n : Nat} (h : 2 < n) : elementOf n = none := by
  obtain ⟨_, rfl⟩ := Nat.exists_eq_add_of_le' h
  rfl

theorem sectionOf_none {n : Nat} (h1 : n ≠ 1) (h2 : n ≠ 2) : sectionOf n = none := by
  match n with
  | 0 | _ + 3 => rfl
  | 1 | 2 => omega

/-! ### The reading requests -/

theorem askQueryOperation_bay {n : Nat} {p : Pos} (s : State) (h : n ≠ 0) (hp : bayOf n = some p) :
    askQueryOperation n s = s.answer .ok (.linkStatus (s.link p).op (s.link p).state) := by
  simp only [askQueryOperation, if_neg h, hp]

theorem askQueryOperation_outside {n : Nat} (s : State) (h : n ≠ 0) (hn : bayOf n = none) :
    askQueryOperation n s = s.answer .badValue := by
  simp only [askQueryOperation, if_neg h, hn]

theorem askReadBay_bay {n : Nat} {p : Pos} (s : State) (hp : bayOf n = some p) :
    askReadBay n s = s.answer .ok (s.bayFields p) := by
  simp only [askReadBay, hp]

theorem askReadBay_outside {n : Nat} (s : State) (hn : bayOf n = none) : askReadBay n s = s.answer .badValue := by
  simp only [askReadBay, hn]

theorem askReadSettings_outside {n : Nat} (s : State) (h : 1 < n) : askReadSettings n s = s.answer .badValue := by
  match n with
  | 0 | 1 => omega
  | _ + 2 => rfl

/-- OLDEST finds no record exactly where none is held. -/
theorem askReadRecord_oldest (i : Nat) (s : State) :
    askReadRecord 0 i s =
      s.answer (if s.trip.records = [] then .noRecord else .ok) (s.recordFields s.trip.records.head?) := by
  unfold askReadRecord State.readRecord
  cases s.trip.records <;> rfl

theorem askReadRecord_outside {x : Nat} (i : Nat) (s : State) (h : 1 < x) :
    askReadRecord x i s = s.answer .badValue (s.recordFields none) := by
  match x with
  | 0 | 1 => omega
  | _ + 2 => rfl

theorem askReadLink_outside {n c : Nat} (s : State) (h : bayOf n = none ∨ 1 < c) : askReadLink n c s = s.answer .badValue := by
  rcases h with hn | hc
  · simp only [askReadLink, hn]
  · rw [askReadLink, yesNo_none hc]
    cases bayOf n <;> rfl

/-- The answer of READ_LINK: its fields are those before the counters are zeroed (R83). -/
theorem askReadLink_bay {n c : Nat} {p : Pos} {clear : Bool} (s : State) (hp : bayOf n = some p) (hc : yesNo c = some clear) :
    askReadLink n c s =
      (if clear then s.modLink p fun l => { l with errors := .zero } else s).answer .ok (s.linkFields p) := by
  simp only [askReadLink, hp, hc]

/-- Settles O20: each request by its owner's answer, READ_ZONE's fields by whether a picture stands. -/
theorem readsChangeOnlyTheReply : Obligations.ReadsChangeOnlyTheReply := by
  refine ⟨fun s => ?zoneFields, fun _ => rfl, fun s h => ⟨?device, ?noTarget, ?target, ?clock, ?noBay, ?bay, ?zone, ?active,
    ?staged, ?noGroup, ?oldest, ?byId, ?noSelector, ?noLink, ?link, ?linkCleared⟩⟩
  case zoneFields =>
    unfold State.zoneFields
    cases s.replica.picture <;> rfl
  case device => exact request_answers h rfl
  case noTarget => exact fun n h0 hn => request_answers h (askQueryOperation_outside s h0 hn)
  case target => exact fun n p h0 hp => request_answers h (askQueryOperation_bay s h0 hp)
  case clock => exact request_answers h rfl
  case noBay => exact fun n hn => request_answers h (askReadBay_outside s hn)
  case bay => exact fun n p hp => request_answers h (askReadBay_bay s hp)
  case zone => exact request_answers h rfl
  case active => exact request_answers h rfl
  case staged => exact request_answers h rfl
  case noGroup => exact fun n hn => request_answers h (askReadSettings_outside s hn)
  case oldest => exact fun i => request_answers h (askReadRecord_oldest i s)
  case byId => exact fun i => request_answers h rfl
  case noSelector => exact fun x i hx => request_answers h (askReadRecord_outside i s hx)
  case noLink => exact fun n c hn => request_answers h (askReadLink_outside s hn)
  case link => exact fun n p hp => request_answers h (askReadLink_bay (clear := false) s hp rfl)
  case linkCleared => exact fun n p hp => request_answers h (askReadLink_bay (clear := true) s hp rfl)

/-! ### CONFIGURE_BAY: the occupant and the budget (R3) -/

/-- The first position in ascending order that meets a test. -/
theorem find_allPos {f : Pos → Bool} {o : Pos} : allPos.find? f = some o ↔ f o = true ∧ ∀ q, q < o → f q = false := by
  have ascending : allPos.Pairwise (· < ·) := by decide
  rw [List.find?_eq_some_iff_append]
  refine and_congr_right fun _ => ⟨?_, fun below => ?_⟩
  · rintro ⟨before, after, split, fails⟩ q hq
    rw [split, List.pairwise_append, List.pairwise_cons] at ascending
    have place : q ∈ before ++ o :: after := split ▸ mem_allPos q
    rcases List.mem_append.1 place with hb | hb
    · simpa using fails q hb
    · rcases List.mem_cons.1 hb with rfl | ha
      · exact absurd hq (lt_irrefl _)
      · exact absurd (ascending.2.1.1 q ha) (lt_asymm hq)
  · obtain ⟨before, after, split⟩ := List.append_of_mem (mem_allPos o)
    refine ⟨before, after, split, fun q hq => ?_⟩
    rw [split, List.pairwise_append] at ascending
    simpa using below q (ascending.2.2 q hq o (List.mem_cons_self ..))

/-- Bay o has the place that bay p asks for. -/
def taken (s : State) (p : Pos) (k : BayKind) (x : SectionNo) (u : Bus) (o : Pos) : Prop :=
  o ≠ p ∧ (s.bay o).configured = true ∧ (s.bay o).kind = k ∧
    ((k = .coupler ∧ (s.bay o).sectionNo = x) ∨ (k = .sectionBay ∧ (s.bay o).bus = u))

theorem occupies_iff (k : BayKind) (x : SectionNo) (u : Bus) (b : BayRecord) :
    b.occupies k x u = true ↔ b.configured = true ∧ b.kind = k ∧
      ((k = .coupler ∧ b.sectionNo = x) ∨ (k = .sectionBay ∧ b.bus = u)) := by
  cases k <;> simp [BayRecord.occupies, and_assoc]

theorem taken_iff (s : State) (p : Pos) (k : BayKind) (x : SectionNo) (u : Bus) (o : Pos) :
    (o != p && (s.bay o).occupies k x u) = true ↔ taken s p k x u o := by
  rw [Bool.and_eq_true, bne_iff_ne, occupies_iff]; rfl

theorem occupant_none (s : State) (p : Pos) (k : BayKind) (x : SectionNo) (u : Bus) :
    s.occupant p k x u = none ↔ ∀ o, ¬ taken s p k x u o := by
  unfold State.occupant
  rw [List.find?_eq_none]
  exact ⟨fun h o => mt (taken_iff ..).mpr (h o (mem_allPos o)), fun h o _ => mt (taken_iff ..).mp (h o)⟩

theorem occupant_some (s : State) (p : Pos) (k : BayKind) (x : SectionNo) (u : Bus) (o : Pos)
    (h : s.occupant p k x u = some o) : taken s p k x u o ∧ ∀ q, q < o → ¬ taken s p k x u q := by
  obtain ⟨has, below⟩ := find_allPos.1 h
  exact ⟨(taken_iff ..).mp has, fun q hq ht => by
    have := (taken_iff ..).mpr ht
    rw [below q hq] at this
    cases this⟩

/-- Two tables with the same cell at every position are one. -/
theorem table_ext {α : Type} {t u : Table α} (h : ∀ p, t.get p = u.get p) : t = u := by
  apply Table.ext_cells
  apply List.ext_getElem (t.size.trans u.size.symm)
  intro n ht _
  exact h ⟨n, t.size ▸ ht⟩

/-- A table's cells, read position by position. -/
theorem cells_allPos {α : Type} (t : Table α) : t.cells = allPos.map t.get :=
  congrArg Table.cells (table_ext fun p => (Table.get_build t.get p).symm)

/-- What is added up over a list only where a test holds. -/
theorem sum_where {α : Type} (f : α → Bool) (g : α → Nat) (xs : List α) :
    (xs.map fun a => if f a then g a else 0).sum = ((xs.filter f).map g).sum := by
  induction xs with
  | nil => rfl
  | cons a xs ih =>
    cases hf : f a <;> simp [hf, ih]

/-- The budget that every other configured bay takes (R3): bay p taken as not configured adds nothing. -/
theorem otherAllocs_eq (s : State) (p : Pos) : s.otherAllocs p = allocations s.bays (allPos.filter fun o => o != p) := by
  have share : ∀ q, ((s.bays.modify p fun b => { b with configured := false }).get q).share =
      if (s.bays.get q).configured && q != p then (s.bays.get q).alloc else 0 := by
    intro q
    by_cases hq : q = p
    · subst hq
      simp [BayRecord.share]
    · simp [Table.get_modify_other _ hq, BayRecord.share, hq]
  unfold State.otherAllocs allocations
  rw [budgetUsed_sum, cells_allPos, List.map_map, List.filter_filter, ← sum_where]
  exact congrArg List.sum (List.map_congr_left fun q _ => share q)

/-! ### CONFIGURE_BAY: the checks and the record (R3, R4) -/

theorem placeNeedsTwo_iff (k : BayKind) (x : SectionNo) (two : Bool) :
    (placeNeedsTwo k x && !two) = true ↔ (k = .sectionBay ∨ x = .two) ∧ two = false := by
  simp [placeNeedsTwo]

/-- A conditional answer, handed over. -/
theorem handed_ite (c : Prop) [Decidable c] (a b : Answer) :
    handed (if c then a else b) = if c then handed a else handed b := apply_ite handed c a b

/-- CONFIGURE_BAY once its named values are read: the checks in order, and the record written. -/
theorem handed_configure (s : State) (p : Pos) (k : BayKind) (x : SectionNo) (u : Bus) (c : Nat) (o : Polarity) (a : Nat) :
    handed (s.configure p k x u c o a) =
      if s.controller.protection = .starting then answered s .badState
      else if (s.bay p).service ≠ .outOfService then answered s .badState
      else if (s.link p).state ≠ .down then answered s .badState
      else if c = 0 ∨ 16384 < c then answered s .badValue (.field .scale)
      else if 64 < a then answered s .badValue (.field .alloc)
      else if a < s.controller.station.depth + 1 then answered s .belowDepth
      else if (k = .sectionBay ∨ x = .two) ∧ s.controller.station.twoSections = false then
        answered s .conflict (.conflicting none)
      else if s.occupant p k x u ≠ none then answered s .conflict (.conflicting (s.occupant p k x u))
      else if 512 < s.otherAllocs p + a then answered s .noPool (.freeBudget (512 - s.otherAllocs p))
      else answered (s.configured p k x u c o a) .ok := by
  simp only [State.configure, State.badField, handed_ite, handed_answer, placeNeedsTwo_iff, Option.isSome_iff_ne_none]
  rfl

theorem askConfigureBay_read {b k x u c o a : Nat} {p : Pos} {kind : BayKind} {pol : Polarity} {sec : SectionNo} {bus : Bus}
    (s : State) (hp : bayOf b = some p) (hk : kindOf k = some kind) (ho : polarityOf o = some pol)
    (hx : placeOf kind x u = .ok (sec, bus)) :
    askConfigureBay b k x u c o a s = s.configure p kind sec bus c pol a := by
  simp only [askConfigureBay, hp, hk, ho, hx]

/-! ### CONFIGURE_BAY: the field named (R3, log entry 15) -/

theorem kindOf_some {k : Nat} (h : k ≤ 2) : ∃ kind, kindOf k = some kind := by
  match k with
  | 0 | 1 | 2 => exact ⟨_, rfl⟩
  | _ + 3 => omega

theorem polarityOf_some {o : Nat} (h : o ≤ 1) : ∃ pol, polarityOf o = some pol := by
  match o with
  | 0 | 1 => exact ⟨_, rfl⟩
  | _ + 2 => omega

/-- A FEEDER or COUPLER whose SECTION is outside its list. -/
theorem placeOf_section {k x : Nat} (u : Nat) (h : k ≤ 1) (x1 : x ≠ 1) (x2 : x ≠ 2) :
    ∃ kind, kindOf k = some kind ∧ placeOf kind x u = .error .sectionNo := by
  match k with
  | 0 => exact ⟨.feeder, rfl, by simp only [placeOf, sectionOf_none x1 x2]⟩
  | 1 => exact ⟨.coupler, rfl, by simp only [placeOf, sectionOf_none x1 x2]⟩
  | _ + 2 => omega

/-- A SECTION bay whose BUS is outside its list. -/
theorem placeOf_bus {u : Nat} (x : Nat) (h : 1 < u) : placeOf .sectionBay x u = .error .bus := by
  simp only [placeOf, busOf_none h]

/-- The place refused, once the other named values are read. -/
theorem askConfigureBay_place {b k x u c o a : Nat} {p : Pos} {kind : BayKind} {f : FieldName} (s : State)
    (hp : bayOf b = some p) (hk : kindOf k = some kind) (ho : o ≤ 1) (hx : placeOf kind x u = .error f) :
    askConfigureBay b k x u c o a s = s.badField f := by
  obtain ⟨pol, hpol⟩ := polarityOf_some ho
  simp only [askConfigureBay, hp, hk, hpol, hx]

/-- Settles O21: the occupant and the budget, the checks in order, and the field named. -/
theorem configureBayWritesTheRecord : Obligations.ConfigureBayWritesTheRecord := by
  refine ⟨fun s p k x u => ⟨occupant_none s p k x u, occupant_some s p k x u, otherAllocs_eq s p⟩, ?checks,
    fun b k x u c o a s h => ⟨fun hb => request_answers h ?noBay, fun p hp => ⟨fun hk => request_answers h ?noKind,
      fun hk ho => request_answers h ?noPolarity, fun hk ho x1 x2 => request_answers h ?noSection,
      fun hk ho hu => request_answers h ?noBus⟩⟩⟩
  case checks =>
    intro b k x u c o a p kind pol sec bus s h hp hk ho hx
    refine (request_handed h).trans ?_
    rw [askConfigureBay_read s hp hk ho hx, handed_configure]
    rfl
  case noBay => simp only [askConfigureBay, hb, State.badField]
  case noKind => simp only [askConfigureBay, hp, kindOf_none hk, State.badField]
  case noPolarity =>
    obtain ⟨kind, hkind⟩ := kindOf_some hk
    simp only [askConfigureBay, hp, hkind, polarityOf_none ho, State.badField]
  case noSection =>
    obtain ⟨kind, hkind, hplace⟩ := placeOf_section u hk x1 x2
    exact askConfigureBay_place s hp hkind ho hplace
  case noBus =>
    subst hk
    exact askConfigureBay_place s hp rfl ho (placeOf_bus x hu)

/-! ### OVERRIDE (R11, R34) -/

/-- OVERRIDE once its operands are read, of a configured bay. -/
theorem askOverride_element {b e v : Nat} {p : Pos} {f : Forcing} {x : Element} (s : State) (hp : bayOf b = some p)
    (hf : forcingOf v = some f) (hc : (s.bay p).configured = true) (hx : elementOf e = some x) :
    askOverride b e v s =
      if (s.bay p).kind.overridable x then
        (s.overridden p x f).answer .ok (.replica (((s.overridden p x f).bay p).effective x))
      else s.answer .badValue (.element e) := by
  simp only [askOverride, hp, hf, hc, hx, Bool.not_true, Bool.false_eq_true, if_false]

theorem bay_overridden (s : State) (p : Pos) (e : Element) (f : Forcing) :
    (s.overridden p e f).bay p = (s.bay p).forced e f := Table.get_modify_same s.bays p _

/-- Settles O23: the checks in order, then the override in force. -/
theorem overrideForcesAnElement : Obligations.OverrideForcesAnElement := by
  refine fun b e v s h => ⟨fun bad => request_answers h ?outside, fun p f hp hf => ⟨fun hc => request_answers h ?unconfigured,
    fun hc => ⟨fun he => request_answers h ?noElement, fun el hel => ⟨fun may => request_answers h ?refused,
      fun may => request_answers h ?forced⟩⟩⟩⟩
  case outside =>
    rcases bad with hb | hv
    · simp only [askOverride, hb]
    · rw [askOverride, forcingOf_none hv]
      cases bayOf b <;> rfl
  case unconfigured => simp only [askOverride, hp, hf, hc, Bool.not_false, if_true]
  case noElement => simp only [askOverride, hp, hf, hc, elementOf_none he, Bool.not_true, Bool.false_eq_true, if_false]
  case refused => rw [askOverride_element s hp hf hc hel, if_neg (mt (overridable_iff ..).mp may)]
  case forced =>
    rw [askOverride_element s hp hf hc hel, if_pos ((overridable_iff ..).mpr may), bay_overridden]
    rfl

end Sys2Proof.Proofs
end

section
/-! PROOFS. SET_SERVICE (O22): the checks, a cancellation, and the whole of what a change of SERVICE leaves. -/

namespace Sys2Proof.Proofs

open Sys2Proof Sys2Proof.Machine Sys2Proof.Claims

/-! ### Several reports, as a change of the port alone -/

/-- A port that several reports join, in order, posted at one sequence. -/
def joinedAll (q : Port) (now : Seq) (rs : List Report) : Port :=
  rs.foldl (fun q r => q.join { subject := r.subject, detail := r.detail, postedAt := now }) q

theorem postAll_joined (s : State) (rs : List Report) :
    s.postAll rs = { s with port := joinedAll s.port s.clock.current rs } := by
  induction rs generalizing s with
  | nil => rfl
  | cons r rs ih => exact ih (s.post r)

/-- Changes that do the same to the cell at hand are one change. -/
theorem modify_congr {α : Type} (t : Table α) (p : Pos) {f g : α → α} (h : f (t.get p) = g (t.get p)) :
    t.modify p f = t.modify p g := by
  unfold Table.modify
  rw [h]

/-! ### Cancellations (R153) -/

theorem serviceCancels_iff (before after : Service) (k : OrderKind) :
    serviceCancels before after k = true ↔
      (k = .testTrip ∧ before = .maintenance ∧ after ≠ .maintenance) ∨
        (k = .resetUnit ∧ after = .inService ∧ before ≠ .inService) := by
  simp [serviceCancels, and_assoc]

/-- A cancellation of every order empties both places. -/
theorem cancelled_every (g : Settings) (t : TripState) :
    t.cancelled g (fun _ => true) = { t with inFlight := none, reserved := none } := by
  unfold TripState.cancelled
  cases hf : t.inFlight <;> cases hr : t.reserved <;> simp

theorem cancelOrders_every (s : State) (p : Pos) (c : CancelCause) :
    s.cancelOrders p (fun _ => true) c =
      { s with
        trip := { s.trip with bays := s.trip.bays.modify p fun t => { t with inFlight := none, reserved := none } }
        port := joinedAll s.port s.clock.current (cancellations s p (fun _ => true) c) } := by
  have every : TripState.cancelled s.active (fun _ => true) = fun t => { t with inFlight := none, reserved := none } :=
    funext (cancelled_every s.active)
  unfold State.cancelOrders
  rw [every, postAll_joined]
  rfl

/-! ### The link closed (R78, R90, R96) -/

/-- The link record that closing leaves. -/
def closedRecord (dormant wake : Bool) (l : LinkRecord) : LinkRecord :=
  { l with
    state := if dormant then .dormant else .down
    recovery := false, wakeOption := wake, activitySeen := false, good := 0, lastGood := none, sinceGood := 0, lane := none
    timer := if l.op.state = .busy ∧ l.op.kind ≠ .reallocate then none else l.timer
    op := if l.op.state = .busy then { l.op with state := .done, result := some .aborted } else l.op }

/-- The pool of a link that closing leaves: no frame, and an aborted shrink's allocation applied. -/
def closedPool (next : Seq) (alloc : Nat) (l : LinkRecord) (q : LinkPool) : LinkPool :=
  if l.op.state = .busy ∧ l.op.kind = .reallocate then
    { span := alloc, grant := next + seqOf alloc - 1, stalled := false, frames := [] }
  else { q with frames := [] }

/-- The notices of closing: OP_DONE of a BUSY operation. -/
def closedReports (p : Pos) (l : LinkRecord) : List Report :=
  if l.op.state = .busy then [{ subject := .bay p, detail := .linkOpDone l.op.kind .aborted l.op.wake }] else []

theorem link_closeLink (s : State) (p : Pos) (dormant wake : Bool) :
    (s.closeLink p dormant wake).link p = closedRecord dormant wake (s.link p) := by
  have closing : (s.closeLink p dormant wake).link p = ((s.abortLinkOp p).link p).closed dormant wake := link_modLink ..
  rw [closing, State.abortLinkOp]
  split
  case isTrue busy =>
    have hb : (s.link p).op.state = .busy := by simpa [LinkRecord.busy] using busy
    split
    case h_1 kind =>
      rw [link_endLinkOp, link_modPool]
      simp [LinkRecord.closed, closedRecord, hb, kind]
    case h_2 kind =>
      have hk : (s.link p).op.kind ≠ .reallocate := kind
      rw [link_endLinkOp, link_modLink]
      simp [LinkRecord.closed, closedRecord, hb, hk]
  case isFalse idle =>
    have hb : (s.link p).op.state ≠ .busy := by simpa [LinkRecord.busy] using idle
    simp [LinkRecord.closed, closedRecord, hb]

theorem linkPool_closeLink (s : State) (p : Pos) (dormant wake : Bool) :
    (s.closeLink p dormant wake).linkPool p = closedPool s.next (s.bay p).alloc (s.link p) (s.linkPool p) := by
  have closing : (s.closeLink p dormant wake).linkPool p = { (s.abortLinkOp p).linkPool p with frames := [] } :=
    linkPool_modPool ..
  rw [closing, linkPool_abortLinkOp]
  simp only [LinkRecord.busy, beq_iff_eq, closedPool]
  split <;> rfl

theorem port_endLinkOp (s : State) (p : Pos) (r : LinkResult) :
    (s.endLinkOp p r).port = (s.post { subject := .bay p, detail := .linkOpDone (s.link p).op.kind r (s.link p).op.wake }).port :=
  rfl

theorem port_closeLink (s : State) (p : Pos) (dormant wake : Bool) :
    (s.closeLink p dormant wake).port = joinedAll s.port s.clock.current (closedReports p (s.link p)) := by
  show (s.abortLinkOp p).port = _
  unfold State.abortLinkOp closedReports
  simp only [LinkRecord.busy, beq_iff_eq]
  split
  · split
    · rfl
    · rw [port_endLinkOp, link_modLink]; rfl
  · rfl

/-- Closing changes the links, the pool and the port alone. -/
theorem closeLink_frame (s : State) (p : Pos) (dormant wake : Bool) :
    s.closeLink p dormant wake =
      { s with
        links := (s.closeLink p dormant wake).links, pool := (s.closeLink p dormant wake).pool
        port := (s.closeLink p dormant wake).port } := by
  unfold State.closeLink State.abortLinkOp
  split
  · split <;> rfl
  · rfl

/-- A table that differs from another at one position at most, where it holds what the change there gives. -/
theorem eq_modify {α : Type} {t u : Table α} {p : Pos} {f : α → α} (here : t.get p = f (u.get p))
    (others : ∀ q, q ≠ p → t.get q = u.get q) : t = u.modify p f := by
  refine table_ext fun q => ?_
  by_cases hq : q = p
  · rw [hq, Table.get_modify_same, here]
  · rw [Table.get_modify_other _ hq, others q hq]

theorem closeLink_eq (s : State) (p : Pos) (dormant wake : Bool) :
    s.closeLink p dormant wake =
      { s with
        links := s.links.modify p (closedRecord dormant wake)
        pool := s.pool.modify p (closedPool s.next (s.bay p).alloc (s.link p))
        port := joinedAll s.port s.clock.current (closedReports p (s.link p)) } := by
  rw [closeLink_frame, port_closeLink, eq_modify (link_closeLink s p dormant wake) (only_closeLink ..).link,
    eq_modify (linkPool_closeLink s p dormant wake) (only_closeLink ..).pool]

/-! ### Leaving service (R15) -/

/-- A bay's trip state as leaving service has it before the orders go: both latches cleared, a FAILED record IDLE. -/
theorem leave_eq (t : TripState) : t.leave = unlatched t := by
  unfold TripState.leave TripState.forgive unlatched
  split <;> rfl

theorem inFlight_unlatched (t : TripState) : (unlatched t).inFlight = t.inFlight := by
  unfold unlatched; split <;> rfl

theorem reserved_unlatched (t : TripState) : (unlatched t).reserved = t.reserved := by
  unfold unlatched; split <;> rfl

/-- Clearing a bay's latches touches none of its orders. -/
theorem cancellations_tripReset (s : State) (p : Pos) (which : OrderKind → Bool) (c : CancelCause) :
    cancellations (tripReset s p) p which c = cancellations s p which c := by
  have reset : (tripReset s p).tripState p = unlatched (s.tripState p) := Table.get_modify_same s.trip.bays p unlatched
  unfold cancellations
  rw [reset, inFlight_unlatched, reserved_unlatched]

theorem joinedAll_append (q : Port) (now : Seq) (rs ts : List Report) :
    joinedAll q now (rs ++ ts) = joinedAll (joinedAll q now rs) now ts := List.foldl_append ..

/-- Steps 1 to 3 of R15, each block's part written out. -/
theorem leaveService_eq (s : State) (p : Pos) :
    s.leaveService p =
      { s with
        bays := s.bays.modify p BayRecord.leave
        zones := (tripReset s p).zones
        trip := { s.trip with bays := s.trip.bays.modify p fun t => { unlatched t with inFlight := none, reserved := none } }
        links := s.links.modify p fun l => { closedRecord false false l with errors := .zero }
        pool := s.pool.modify p (closedPool s.next (s.bay p).alloc (s.link p))
        port := joinedAll s.port s.clock.current
          (cancellations s p (fun _ => true) .service ++ closedReports p (s.link p)) } := by
  have latches : (s.modTrip p TripState.leave).examineFlags = tripReset s p := by
    rw [funext leave_eq]; rfl
  have orders : (s.trip.bays.modify p unlatched).modify p (fun t => { t with inFlight := none, reserved := none }) =
      s.trip.bays.modify p fun t => { unlatched t with inFlight := none, reserved := none } := Table.modify_modify ..
  have errors : (s.links.modify p (closedRecord false false)).modify p (fun l => { l with errors := .zero }) =
      s.links.modify p fun l => { closedRecord false false l with errors := .zero } := Table.modify_modify ..
  rw [← orders, ← errors, joinedAll_append, ← cancellations_tripReset]
  simp only [State.leaveService, latches, cancelOrders_every, closeLink_eq]
  rfl

/-! ### SET_SERVICE -/

theorem changeService_inside (s : State) (p : Pos) (target : Service) (h : target ≠ .outOfService) :
    s.changeService p target =
      { s.cancelOrders p (serviceCancels (s.bay p).service target) .service with
        bays := s.bays.modify p fun b => { b with service := target }
        replica := { s.replica with recompute := true } } := by
  unfold State.changeService State.cancelOrders
  simp only [if_neg h, postAll_joined]
  rfl

theorem handed_setService (s : State) (p : Pos) (target : Service) :
    handed (s.setService p target) =
      if (s.bay p).configured = false then answered s .notConfigured
      else if s.controller.protection = .starting then answered s .badState
      else if target = (s.bay p).service then answered s .ok
      else if (s.bay p).dead = false then answered s .notDead
      else if target = .outOfService ∧ (s.tripState p).bf = .timing then answered s .bfRunning
      else
        answered
          (if (s.bay p).service = .inService ∨ target = .inService then (s.changeService p target).settle
           else s.changeService p target) .ok := by
  simp only [State.setService, handed_ite, handed_answer, Bool.not_eq_true', TripState.timing, beq_iff_eq, State.moveService,
    dutyChanges, Bool.or_eq_true]

theorem changeService_out (s : State) (p : Pos) :
    s.changeService p .outOfService =
      { s with
        replica := { s.replica with recompute := true }
        bays := s.bays.modify p fun b =>
          { b with service := .outOfService, missingRun := 0, presentRun := 0, lastPresent := none, data := false }
        zones := (tripReset s p).zones
        trip := { s.trip with bays := s.trip.bays.modify p fun t => { unlatched t with inFlight := none, reserved := none } }
        links := s.links.modify p fun l => { closedRecord false false l with errors := .zero }
        pool := s.pool.modify p (closedPool s.next (s.bay p).alloc (s.link p))
        port := joinedAll s.port s.clock.current
          (cancellations s p (fun _ => true) .service ++ closedReports p (s.link p)) } := by
  have bays : (s.bays.modify p fun b => { b with service := .outOfService }).modify p BayRecord.leave =
      s.bays.modify p fun b =>
        { b with service := .outOfService, missingRun := 0, presentRun := 0, lastPresent := none, data := false } :=
    Table.modify_modify ..
  have alloc : ((s.modBay p fun b => { b with service := .outOfService }).bay p).alloc = (s.bay p).alloc := by
    rw [bay_modBay]
  rw [← bays]
  unfold State.changeService
  simp only [if_true, leaveService_eq, alloc]
  rfl

/-- The port of the statement: the cancelled orders' notices, then that of a BUSY operation. -/
theorem port_left (s : State) (p : Pos) (rs : List Report) :
    joinedAll s.port s.clock.current (rs ++ closedReports p (s.link p)) =
      (if (s.link p).op.state = .busy then
        (s.postAll rs).post { subject := .bay p, detail := .linkOpDone (s.link p).op.kind .aborted (s.link p).op.wake }
       else s.postAll rs).port := by
  rw [postAll_joined, joinedAll_append]
  unfold closedReports
  split <;> rfl

/-- Settles O22: the checks from the request's answer, the change of SERVICE from the parts that leaving service is made of. -/
theorem setServiceMovesTheBay : Obligations.SetServiceMovesTheBay := by
  refine ⟨serviceCancels_iff, fun _ _ _ _ => rfl,
    fun b v s h => ⟨fun bad => request_answers h ?outside, fun p target hp ht => ?checks⟩,
    fun p target s => ⟨changeService_inside s p target, ?out⟩⟩
  case outside =>
    rcases bad with hb | hv
    · simp only [askSetService, hb]
    · rw [askSetService, serviceOf_none hv]
      cases bayOf b <;> rfl
  case checks =>
    have read : askSetService b v s = s.setService p target := by simp only [askSetService, hp, ht]
    refine (request_handed h).trans ?_
    rw [read, handed_setService]
  case out =>
    rw [changeService_out, port_left]
    rfl

end Sys2Proof.Proofs
end

section
/-! PROOFS. The Bay Table's share of a release (O27): one bay's record, notices and hand-off, and its rows taken singly. -/

namespace Sys2Proof.Proofs

open Sys2Proof Sys2Proof.Machine Sys2Proof.Claims

/-! ### The elements of a kind (R2) -/

/-- The elements whose contact pairs are decoded, by whether the bay is a feeder. -/
def decodedElements (k : BayKind) : List Element := if k = .feeder then [.isolatorA, .isolatorB, .breaker] else [.breaker]

theorem elements_eq (k : BayKind) : k.elements = decodedElements k := by cases k <;> rfl

/-- Every decoded element of a bay changed by one rule: a feeder's isolators, and every bay's breaker. -/
def eachElement (f : Element → ElementRecord → ElementRecord) (b : BayRecord) : BayRecord :=
  { b with
    isolatorA := if b.kind = .feeder then f .isolatorA b.isolatorA else b.isolatorA
    isolatorB := if b.kind = .feeder then f .isolatorB b.isolatorB else b.isolatorB
    breaker := f .breaker b.breaker }

theorem foldl_elements (f : Element → ElementRecord → ElementRecord) (b : BayRecord) :
    b.kind.elements.foldl (fun b e => b.withElement e (f e (b.element e))) b = eachElement f b := by
  unfold eachElement
  cases hk : b.kind <;> simp [BayKind.elements, BayRecord.withElement, BayRecord.element, hk]

/-! ### The record after each step of R5 -/

/-- Steps 1 and 2 of R5: what the release's frame leaves (R6, R7, R8, R20). -/
def consumedRecord (g : Settings) (q : Seq) (frame : Option StoredFrame) (b : BayRecord) : BayRecord :=
  match frame with
  | none => b
  | some f =>
    { b with
      isolatorA := if b.kind = .feeder then b.isolatorA.consume g.openDebounce f.status.isolatorA.status else b.isolatorA
      isolatorB := if b.kind = .feeder then b.isolatorB.consume g.openDebounce f.status.isolatorB.status else b.isolatorB
      breaker := b.breaker.consume g.openDebounce f.status.breaker.status
      testSeen := f.status.testMode, bfiPrevious := f.status.bfi
      last := if f.status.unitOk then some { currents := f.currents.map (scaled b.polarity b.scale), sequence := q } else b.last }

theorem consumeStatus_eq (g : Settings) (w : StatusWord) (b : BayRecord) :
    b.consumeStatus g w =
      { eachElement (fun e r => r.consume g.openDebounce (w.pair e).status) b with
        testSeen := w.testMode, bfiPrevious := w.bfi } := by
  rw [← foldl_elements]; rfl

theorem consumedRecord_some (g : Settings) (q : Seq) (f : StoredFrame) (b : BayRecord) :
    (b.consumeStatus g f.status).storeCurrents q f = consumedRecord g q (some f) b := by
  rw [consumeStatus_eq]
  unfold BayRecord.storeCurrents
  cases hu : f.status.unitOk
  · simp [consumedRecord, hu, eachElement, StatusWord.pair]
  · simp [consumedRecord, hu, eachElement, StatusWord.pair, BayRecord.scaledCurrents]

/-- Step 3 of R5 for one element (R9). -/
def travelledElement (limit : Nat) (e : ElementRecord) : ElementRecord :=
  if e.contact = .travel then
    { e with travel := upTo16 e.travel, stuck := e.stuck || decide (limit ≤ upTo16 e.travel) }
  else e

theorem travelStep_element (limit : Nat) (e : ElementRecord) : e.travelStep limit = travelledElement limit e := by
  unfold ElementRecord.travelStep travelledElement
  by_cases ht : e.contact = .travel
  · rw [if_pos ht, if_pos ht]
    cases hs : e.stuck <;> simp [ElementRecord.sticks, ht, hs, raise16, raise]
  · rw [if_neg ht, if_neg ht]

theorem travelStep_eq (g : Settings) (b : BayRecord) :
    b.travelStep g = eachElement (fun _ => travelledElement g.travelLimit) b := by
  rw [← foldl_elements, ← funext (travelStep_element g.travelLimit)]; rfl

/-- Step 4 of R5: the runs, of a bay that is not OUT_OF_SERVICE (R18, R19). -/
def countedRecord (q : Seq) (present : Bool) (b : BayRecord) : BayRecord :=
  if b.service = .outOfService then b
  else if present then
    { b with
      presentRun := upTo16 b.presentRun, missingRun := 0, lastPresent := some q
      data := b.data && !decide (16 ≤ upTo16 b.presentRun) }
  else
    { b with missingRun := upTo16 b.missingRun, presentRun := 0, data := b.data || decide (4 ≤ upTo16 b.missingRun) }

theorem runStep_eq (q : Seq) (present : Bool) (b : BayRecord) : b.runStep q present = countedRecord q present b := by
  unfold BayRecord.runStep countedRecord
  have regained : (if b.regainsData then false else b.data) = (b.data && !decide (16 ≤ upTo16 b.presentRun)) := by
    cases hd : b.data <;> simp [BayRecord.regainsData, hd, raise16, raise]
  have lost : (b.data || b.losesData) = (b.data || decide (4 ≤ upTo16 b.missingRun)) := by
    cases hd : b.data <;> simp [BayRecord.losesData, hd, raise16, raise]
  rw [BayRecord.runPresent, BayRecord.runMissing, regained, lost]
  rfl

/-- The record before the maintenance test (steps 1 to 4 of R5). -/
def workedRecord (g : Settings) (q : Seq) (frame : Option StoredFrame) (b : BayRecord) : BayRecord :=
  countedRecord q (frame.any fun f => f.status.unitOk)
    (eachElement (fun _ => travelledElement g.travelLimit) (consumedRecord g q frame b))

/-- What the steps before the maintenance test leave of KIND and SERVICE. -/
theorem kind_service_workedRecord (g : Settings) (q : Seq) (frame : Option StoredFrame) (b : BayRecord) :
    (workedRecord g q frame b).kind = b.kind ∧ (workedRecord g q frame b).service = b.service := by
  have consumed : (consumedRecord g q frame b).kind = b.kind ∧ (consumedRecord g q frame b).service = b.service := by
    cases frame <;> exact ⟨rfl, rfl⟩
  unfold workedRecord countedRecord
  split
  · exact consumed
  · split <;> exact consumed

/-- Step 5 of R5: the test of R17. -/
theorem violates_eq (g : Settings) (q : Seq) (frame : Option StoredFrame) (b : BayRecord) :
    (workedRecord g q frame b).violates = decide (b.service = .maintenance ∧ (workedRecord g q frame b).dead = false) := by
  rw [Bool.eq_iff_iff]
  simp [BayRecord.violates, (kind_service_workedRecord g q frame b).2]

/-! ### The whole of one bay's work -/

/-- A bay's work at a release, by the records after its steps. -/
theorem step_eq (g : Settings) (q : Seq) (frame : Option StoredFrame) (b : BayRecord) :
    b.step g q frame =
      let c := consumedRecord g q frame b
      let w := workedRecord g q frame b
      { record := if w.violates then { w with service := .inService } else w
        before :=
          (frame.elim [] fun f => b.invalidDetails q f.status) ++ c.stuckDetails g ++
            (frame.elim [] fun f => b.testDetails f.status)
        violation := if w.violates then [.maintenanceViolation w.shutElements] else []
        after := (eachElement (fun _ => travelledElement g.travelLimit) c).dataDetails (frame.any fun f => f.status.unitOk)
        hand := frame.elim { BayHand.none with violation := w.violates } fun f =>
          { present := f.status.unitOk, consumed := true, currents := b.scaledCurrents f
            bfiEdge := f.status.bfi && !b.bfiPrevious, tripSeen := f.status.tripSeen, transferSeen := f.status.transferSeen
            echo := f.echo, violation := w.violates } } := by
  cases frame with
  | none =>
    simp only [BayRecord.step, runStep_eq, travelStep_eq]
    rfl
  | some f =>
    simp only [BayRecord.step, runStep_eq, travelStep_eq, consumedRecord_some]
    rfl

/-! ### The notices in their order -/

theorem invalidDetails_eq (q : Seq) (w : StatusWord) (b : BayRecord) :
    b.invalidDetails q w =
      ((decodedElements b.kind).filter fun e => decide ((w.pair e).status = .invalid ∧ (b.element e).contact ≠ .invalid)).map
        fun e => .contactInvalid e q := by
  unfold BayRecord.invalidDetails
  rw [elements_eq]
  congr 2
  funext e
  rw [Bool.eq_iff_iff]
  simp

theorem stuckDetails_eq (g : Settings) (b : BayRecord) :
    b.stuckDetails g =
      ((decodedElements b.kind).filter fun e =>
          decide ((b.element e).contact = .travel ∧ (b.element e).stuck = false ∧ g.travelLimit ≤ upTo16 (b.element e).travel)).map
        fun e =>
          if e = .breaker then .breakerStuck e (upTo16 (b.element e).travel)
          else .isolatorStuck e (upTo16 (b.element e).travel) := by
  have detail : (fun e => stuckDetail e (raise16 (b.element e).travel)) = fun e =>
      if e = .breaker then .breakerStuck e (upTo16 (b.element e).travel)
      else .isolatorStuck e (upTo16 (b.element e).travel) := by
    funext e
    cases e <;> rfl
  have test : (fun e => (b.element e).sticks g.travelLimit) = fun e =>
      decide ((b.element e).contact = .travel ∧ (b.element e).stuck = false ∧ g.travelLimit ≤ upTo16 (b.element e).travel) := by
    funext e
    rw [Bool.eq_iff_iff]
    simp [ElementRecord.sticks, raise16, raise, and_left_comm, and_comm]
  unfold BayRecord.stuckDetails
  rw [elements_eq, detail, test]

theorem testDetails_eq (w : StatusWord) (b : BayRecord) :
    b.testDetails w = if w.testMode = b.testSeen then [] else [.testModeSeen w.testMode] := by
  simp [BayRecord.testDetails, ite_not]

theorem dataDetails_eq (present : Bool) (b : BayRecord) :
    b.dataDetails present =
      if b.service = .outOfService then []
      else if present then (if b.data = true ∧ 16 ≤ upTo16 b.presentRun then [.dataRestored] else [])
      else if b.data = false ∧ 4 ≤ upTo16 b.missingRun then [.dataLost b.lastPresent] else [] := by
  have regains : b.regainsData = true ↔ b.data = true ∧ 16 ≤ upTo16 b.presentRun := by
    simp [BayRecord.regainsData, raise16, raise, and_comm]
  have loses : b.losesData = true ↔ b.data = false ∧ 4 ≤ upTo16 b.missingRun := by
    simp [BayRecord.losesData, raise16, raise, and_comm]
  simp only [BayRecord.dataDetails, regains, loses]

/-! ### The rows, each alone (R8, R9, R19; log entry 3) -/

theorem decodes_of_mem {b : BayRecord} {e : Element} (hc : b.configured = true) (he : e ∈ b.kind.elements) :
    b.decodes e = true := by
  simp [BayRecord.decodes, hc, he]

/-- REPLICA_OPEN's condition holds: the consumption of OPEN that reaches OPEN_DEBOUNCE. -/
theorem exec_replicaOpen {s : State} {p : Pos} {e : Element} (h : powered s) (hd : (s.bay p).decodes e = true)
    (shut : ((s.bay p).element e).derived = .closed) (reaches : s.active.openDebounce ≤ ((s.bay p).element e).debounce + 1) :
    exec (.replicaOpen p e) s = .next (s.modBay p fun b => b.withElement e
      { b.element e with
        contact := .opened, derived := .opened, debounce := s.active.openDebounce, travel := 0, stuck := false }) := by
  have consumed := consume_opened s.active.openDebounce ((s.bay p).element e)
  rw [if_pos reaches, if_pos reaches] at consumed
  simp only [exec, execReplicaOpen, event_on h, hd, shut, reaches, beq_self_eq_true, Bool.true_and, decide_true, if_true, consumed]
  exact congrArg (fun t => Host.Outcome.next { s with bays := t }) (modify_congr s.bays p rfl)

/-- ISOLATOR_STUCK's and BREAKER_STUCK's condition holds: the travel count has reached TRAVEL_LIMIT. -/
theorem stickElement_eq {s : State} {p : Pos} {e : Element} (hd : (s.bay p).decodes e = true)
    (moving : ((s.bay p).element e).contact = .travel) (unreported : ((s.bay p).element e).stuck = false)
    (reaches : s.active.travelLimit ≤ upTo16 ((s.bay p).element e).travel) :
    s.stickElement p e =
      (s.modBay p fun b => b.withElement e { b.element e with travel := upTo16 (b.element e).travel, stuck := true }).post
        { subject := .bay p, detail := stuckDetail e (upTo16 ((s.bay p).element e).travel) } := by
  have sticks : ((s.bay p).element e).sticks s.active.travelLimit = true := by
    simp only [ElementRecord.sticks, moving, unreported, beq_self_eq_true, Bool.not_false, Bool.and_true, Bool.true_and,
      decide_eq_true_eq]
    exact reaches
  have travelled : ((s.bay p).element e).travelStep s.active.travelLimit =
      { (s.bay p).element e with travel := upTo16 ((s.bay p).element e).travel, stuck := true } := by
    simp only [ElementRecord.travelStep, if_pos moving, sticks, Bool.or_true]
    rfl
  have cell : s.bays.modify p (fun b => b.withElement e ((b.element e).travelStep s.active.travelLimit)) =
      s.bays.modify p fun b => b.withElement e { b.element e with travel := upTo16 (b.element e).travel, stuck := true } :=
    modify_congr s.bays p (congrArg ((s.bay p).withElement e) travelled)
  simp only [State.stickElement, hd, sticks, Bool.and_self, if_true, State.modBay, cell]
  rfl

theorem counts_of_service {b : BayRecord} (hc : b.configured = true) (hs : b.service ≠ .outOfService) : b.counts = true := by
  simp [BayRecord.counts, hc, hs]

/-- DATA_LOST's condition holds: the fourth missing release. -/
theorem exec_dataLost {s : State} {p : Pos} (h : powered s) (counts : (s.bay p).counts = true)
    (held : (s.bay p).data = false) (third : 3 ≤ (s.bay p).missingRun) :
    exec (.dataLost p) s = .next
      ((s.modBay p fun b => { b with missingRun := upTo16 b.missingRun, presentRun := 0, data := true }).post
        { subject := .bay p, detail := .dataLost (s.bay p).lastPresent }) := by
  have fourth : 4 ≤ raise16 (s.bay p).missingRun := by unfold raise16 raise; omega
  have loses : (s.bay p).losesData = true := by simp [BayRecord.losesData, held, fourth]
  have cell : s.bays.modify p BayRecord.runMissing =
      s.bays.modify p fun b => { b with missingRun := upTo16 b.missingRun, presentRun := 0, data := true } := by
    refine modify_congr s.bays p ?_
    show (s.bay p).runMissing = _
    rw [BayRecord.runMissing, loses, Bool.or_true]
    rfl
  simp only [exec, execDataLost, event_on h, counts, loses, Bool.and_self, if_true, State.modBay, cell]

/-- DATA_RESTORED's condition holds: the sixteenth present release. -/
theorem exec_dataRestored {s : State} {p : Pos} (h : powered s) (counts : (s.bay p).counts = true)
    (missing : (s.bay p).data = true) (fifteenth : 15 ≤ (s.bay p).presentRun) :
    exec (.dataRestored p) s = .next
      ((s.modBay p fun b =>
        { b with
          presentRun := upTo16 b.presentRun, missingRun := 0, lastPresent := some s.releaseUnit.next, data := false }).post
        { subject := .bay p, detail := .dataRestored }) := by
  have sixteenth : 16 ≤ raise16 (s.bay p).presentRun := by unfold raise16 raise; omega
  have regains : (s.bay p).regainsData = true := by simp [BayRecord.regainsData, missing, sixteenth]
  have cell : s.bays.modify p (BayRecord.runPresent s.next) =
      s.bays.modify p fun b =>
        { b with
          presentRun := upTo16 b.presentRun, missingRun := 0, lastPresent := some s.releaseUnit.next, data := false } := by
    refine modify_congr s.bays p ?_
    show (s.bay p).runPresent s.next = _
    rw [BayRecord.runPresent, if_pos regains]
    rfl
  simp only [exec, execDataRestored, event_on h, counts, regains, Bool.and_self, if_true, State.modBay, cell]

/-! ### O27 -/

/-- The work of all bays, then the test of the start condition (R167; log entry 19). -/
theorem workBays_eq (q : Seq) (s : State) :
    let worked := allPos.foldl (fun u p => u.workBay q p) s
    s.workBays q =
      if worked.controller.protection = .starting ∧ worked.startCondition = true then worked.succeedStart else worked := by
  simp only [State.workBays, State.testStart, State.startHolds, Bool.and_eq_true, beq_iff_eq]

/-- Settles O27: one bay's work from the records after its steps, and each row from the share of it that its condition selects. -/
theorem bayRowsOfARelease : Obligations.BayRowsOfARelease := by
  refine ⟨fun g q frame b => ?step, fun q s p => ⟨fun hc => ?unconfigured, fun hc => ?configured⟩, fun q s => workBays_eq q s,
    fun p s h hc => ⟨fun e he => ⟨fun shut reaches => ?replicaOpen, fun moving unreported reaches => ?stuck⟩,
      fun inUse held third => exec_dataLost h (counts_of_service hc inUse) held third,
      fun inUse missing fifteenth => exec_dataRestored h (counts_of_service hc inUse) missing fifteenth⟩⟩
  case unconfigured => simp only [State.workBay, hc, Bool.false_eq_true, if_false]
  case configured => rw [State.workBay, if_pos hc]; rfl
  case replicaOpen => exact exec_replicaOpen h (decodes_of_mem hc he) shut reaches
  case stuck =>
    have sticks := stickElement_eq (decodes_of_mem hc he) moving unreported reaches
    refine ⟨fun isolator => ?_, fun breaker => ?_⟩
    · simp only [exec, execIsolatorStuck, event_on h, if_neg isolator, sticks]
      cases e with
      | breaker => exact absurd rfl isolator
      | isolatorA | isolatorB => rfl
    · subst breaker
      simp only [exec, execBreakerStuck, event_on h, sticks, stuckDetail]
  case step =>
    have kept : (consumedRecord g q frame b).kind = b.kind := by cases frame <;> rfl
    have kind := (kind_service_workedRecord g q frame b).1
    rw [step_eq]
    refine ⟨?record, ?before, ?violation, ?after, ?hand⟩
    case record =>
      simp only [violates_eq, decide_eq_true_eq]
      cases frame <;> rfl
    case before =>
      simp only [invalidDetails_eq, stuckDetails_eq, testDetails_eq, kept]
      cases frame <;> rfl
    case violation =>
      simp only [violates_eq, decide_eq_true_eq, BayRecord.shutElements, elements_eq, kind]
      cases frame <;> rfl
    case after =>
      simp only [dataDetails_eq]
      cases frame <;> rfl
    case hand =>
      simp only [violates_eq]
      cases frame <;> rfl

end Sys2Proof.Proofs
end

section
/-! PROOFS. BLOCK_ZONE (O28) and UNBLOCK_ZONE (O29): the list of names, the checks in order, the flags set or cleared and what goes with them. -/

namespace Sys2Proof.Proofs

open Sys2Proof Sys2Proof.Machine Sys2Proof.Claims

/-! ### CHECK, and the list of names (R24, R25) -/

theorem yesNo_some {c : Nat} (h : c ≤ 1) : yesNo c = some (c == 1) := by
  match c with
  | 0 | 1 => rfl
  | _ + 2 => omega

theorem readAll_none {α : Type} {f : Nat → Option α} {n : Nat} (hf : f n = none) :
    ∀ {ns : List Nat}, n ∈ ns → readAll f ns = none
  | m :: ms, hn => by
    rcases List.mem_cons.1 hn with rfl | hn
    · simp only [readAll, hf]
    · rw [readAll, readAll_none hf hn]
      cases f m <;> rfl

/-- What is written one by one is read back. -/
theorem readAll_map {α : Type} {f : Nat → Option α} {g : α → Nat} (hf : ∀ a, f (g a) = some a) :
    ∀ as : List α, readAll f (as.map g) = some as
  | [] => rfl
  | a :: as => by simp only [List.map_cons, readAll, hf a, readAll_map hf as]

theorem zoneOf_none {n : Nat} (h : 3 < n) : zoneOf n = none := by
  obtain ⟨_, rfl⟩ := Nat.exists_eq_add_of_le' h
  rfl

theorem zoneOf_zoneBit (z : BusZone) : zoneOf (zoneBit z) = some z := by cases z <;> rfl

theorem zoneNames_none {ns : List Nat} (h : 4 < ns.length ∨ ∃ n ∈ ns, 3 < n) : zoneNames ns = none := by
  unfold zoneNames
  rcases h with long | ⟨n, hn, outside⟩
  · exact if_pos long
  · rw [readAll_none (zoneOf_none outside) hn, ite_self]

theorem zoneNames_map {zs : List BusZone} (h : (zs.map zoneBit).length ≤ 4) : zoneNames (zs.map zoneBit) = some zs := by
  rw [zoneNames, if_neg (Nat.not_lt.mpr h), readAll_map zoneOf_zoneBit]

/-! ### BLOCK_ZONE (R24) -/

theorem askBlockZone_unread {ns : List Nat} (s : State) (h : ns = [] ∨ zoneNames ns = none) :
    askBlockZone ns s = s.answer .badValue := by
  rcases h with rfl | unread
  · rfl
  · simp only [askBlockZone, unread, ite_self]

theorem askBlockZone_missing {ns : List Nat} {zs : List BusZone} {z : BusZone} (s : State) (some_name : ns ≠ [])
    (read : zoneNames ns = some zs) (gone : s.replica.missing zs = some z) :
    askBlockZone ns s = s.answer .badValue (.zone z) := by
  simp only [askBlockZone, List.isEmpty_iff, if_neg some_name, read, gone]

theorem askBlockZone_there {ns : List Nat} {zs : List BusZone} (s : State) (some_name : ns ≠ [])
    (read : zoneNames ns = some zs) (there : s.replica.missing zs = none) :
    askBlockZone ns s = (s.blockZones zs).answer .ok ((s.blockZones zs).flagFields (s.replica.someClear zs)) := by
  simp only [askBlockZone, List.isEmpty_iff, if_neg some_name, read, there]

/-- Settles O28: the list read, the first name that is no bus zone of the station, then HOST set. -/
theorem blockZoneSetsHost : Obligations.BlockZoneSetsHost := by
  refine fun ns s h => ⟨fun bad => request_answers h (askBlockZone_unread s (bad.imp_right zoneNames_none)), ?_⟩
  intro zs some_name short written someClear t
  have read : zoneNames ns = some zs := written ▸ zoneNames_map (written ▸ short)
  cases found : s.replica.missing zs with
  | some z =>
    rw [show zs.find? (fun z => !s.replica.existing.contains z) = some z from found]
    exact request_answers h (askBlockZone_missing s some_name read found)
  | none =>
    rw [show zs.find? (fun z => !s.replica.existing.contains z) = none from found]
    exact request_answers h (askBlockZone_there s some_name read found)

/-! ### UNBLOCK_ZONE's clearing (R128) -/

/-- In the picture of the last release, the effective zone that contains bus zone x has this name. -/
def liesIn (r : ZoneReplica) (x name : BusZone) : Bool :=
  r.picture.any fun pic => (pic.zoneWith x).any fun z => z.name == name

/-- The zone states in which the CTS counters and indications of the zones of these names are cleared. -/
def ctsCleared (names : BusZone → Bool) (zones : List ZoneState) : List ZoneState :=
  zones.map fun st => if names st.name then { st with cts := .fresh } else st

theorem ctsCleared_none (zones : List ZoneState) : ctsCleared (fun _ => false) zones = zones := by
  simp [ctsCleared]

theorem ctsCleared_ctsCleared (f g : BusZone → Bool) (zones : List ZoneState) :
    ctsCleared g (ctsCleared f zones) = ctsCleared (fun n => f n || g n) zones := by
  unfold ctsCleared
  rw [List.map_map]
  congr 1
  funext st
  by_cases hf : f st.name = true
  · simp [hf]
  · simp [hf]

theorem clearCtsOf_eq (s : State) (x : BusZone) :
    s.clearCtsOf x = { s with zones := ctsCleared (liesIn s.replica x) s.zones } := by
  have unheld : s = { s with zones := ctsCleared (fun _ => false) s.zones } := by rw [ctsCleared_none]
  unfold State.clearCtsOf liesIn
  cases hp : s.replica.picture with
  | none => exact unheld
  | some pic =>
    simp only [Option.bind_some, Option.any_some]
    cases hz : pic.zoneWith x with
    | none => exact unheld
    | some z => simp only [ctsCleared, Option.any_some, beq_iff_eq, @eq_comm _ z.name]

/-- The clearing for several bus zones, one after the other. -/
theorem foldl_clearCtsOf (xs : List BusZone) (s : State) :
    xs.foldl State.clearCtsOf s =
      { s with zones := ctsCleared (fun name => xs.any fun x => liesIn s.replica x name) s.zones } := by
  induction xs generalizing s with
  | nil => exact congrArg (fun zs => { s with zones := zs }) (ctsCleared_none s.zones).symm
  | cons x xs ih =>
    rw [List.foldl_cons, ih, clearCtsOf_eq]
    simp only [ctsCleared_ctsCleared, List.any_cons]

/-! ### UNBLOCK_ZONE (R25, R128) -/

/-- UNBLOCK_ZONE for bus zones that exist, block by block. -/
theorem unblockZones_eq (s : State) (zs : List BusZone) (check : Bool) :
    s.unblockZones zs check =
      { s with
        replica := (s.replica.unblock zs check).marked (s.replica.someSet zs check)
        zones := ctsCleared
          (fun name => s.replica.busZones.any fun r => zs.contains r.zone && r.cts && liesIn s.replica r.zone name) s.zones
        check := if check && s.replica.checkCts then s.check.map fun k => { k with cts := .fresh } else s.check } := by
  have held : (fun name => (s.replica.ctsSet zs).any fun x => liesIn s.replica x name) = fun name =>
      s.replica.busZones.any fun r => zs.contains r.zone && r.cts && liesIn s.replica r.zone name := by
    funext name
    simp only [ZoneReplica.ctsSet, List.any_map, List.any_filter, Function.comp_apply]
  unfold State.unblockZones
  rw [foldl_clearCtsOf, held]
  cases check && s.replica.checkCts <;> rfl

/-- CHECK read, and neither an empty list without it nor a list that is refused whole. -/
structure UnblockRead (ns : List Nat) (check : Nat) (zs : List BusZone) (c : Bool) : Prop where
  check : yesNo check = some c
  asked : (ns.isEmpty && !c) = false
  names : zoneNames ns = some zs

theorem askUnblockZone_unread {ns : List Nat} {check : Nat} (s : State)
    (h : 1 < check ∨ (ns = [] ∧ check = 0) ∨ zoneNames ns = none) : askUnblockZone ns check s = s.answer .badValue := by
  unfold askUnblockZone
  rcases h with outside | ⟨rfl, rfl⟩ | unread
  · rw [yesNo_none outside]
  · rfl
  · cases yesNo check with
    | none => rfl
    | some c => simp only [unread, ite_self]

theorem askUnblockZone_missing {ns : List Nat} {check : Nat} {zs : List BusZone} {c : Bool} {z : BusZone} (s : State)
    (read : UnblockRead ns check zs c) (gone : s.replica.missing zs = some z) :
    askUnblockZone ns check s = s.answer .badValue (.zone z) := by
  simp only [askUnblockZone, read.check, read.asked, read.names, gone, Bool.false_eq_true, if_false]

theorem askUnblockZone_there {ns : List Nat} {check : Nat} {zs : List BusZone} {c : Bool} (s : State)
    (read : UnblockRead ns check zs c) (there : s.replica.missing zs = none) :
    askUnblockZone ns check s = (s.unblockZones zs c).answer .ok ((s.unblockZones zs c).flagFields (s.replica.someSet zs c)) := by
  simp only [askUnblockZone, read.check, read.asked, read.names, there, Bool.false_eq_true, if_false]

theorem unblockRead_of {ns : List Nat} {c : Nat} {zs : List BusZone} (yes_or_no : c ≤ 1) (asked : ns ≠ [] ∨ c = 1)
    (short : ns.length ≤ 4) (written : ns = zs.map zoneBit) : UnblockRead ns c zs (c == 1) where
  check := yesNo_some yes_or_no
  asked := by
    rcases asked with some_name | rfl
    · rw [List.isEmpty_eq_false_iff.mpr some_name, Bool.false_and]
    · exact Bool.and_false _
  names := written ▸ zoneNames_map (written ▸ short)

/-- The first name that is no bus zone of the station, looked for among the records. -/
theorem missing_eq (r : ZoneReplica) (zs : List BusZone) :
    r.missing zs = zs.find? fun z => !r.busZones.any fun y => y.zone == z := by
  unfold ZoneReplica.missing ZoneReplica.existing
  congr 1
  funext z
  simp only [List.contains_eq_any_beq, List.any_map, Function.comp_def, BEq.comm]

/-- Settles O29: CHECK, the list read, the first name that is no bus zone of the station, then the flags and the counters. -/
theorem unblockZoneClearsFlags : Obligations.UnblockZoneClearsFlags := by
  refine fun ns c s h => ⟨fun bad => request_answers h
    (askUnblockZone_unread s (bad.imp_right (Or.imp_right zoneNames_none))), ?_⟩
  intro zs yes_or_no asked short written standsHere someSet replica fresh wasHeld
  have read := unblockRead_of yes_or_no asked short written
  have named : zs.find? (fun z => !standsHere z) = s.replica.missing zs := (missing_eq ..).symm
  rw [named]
  cases found : s.replica.missing zs with
  | some z => exact request_answers h (askUnblockZone_missing s read found)
  | none =>
    refine (request_answers h (askUnblockZone_there s read found)).trans ?_
    rw [unblockZones_eq]
    simp only [Bool.and_eq_true, beq_iff_eq]
    rfl

end Sys2Proof.Proofs
end

section
/-! PROOFS. The picture (O30) and the Zone Replica's turn at a release (O31): partition, members with their signs, changed zones, blocked
states and their notices. -/

namespace Sys2Proof.Proofs

open Sys2Proof Sys2Proof.Machine Sys2Proof.Claims

/-! ### Lists in ascending bay number (R31, R32) -/

theorem allPos_ascending : allPos.Pairwise (· < ·) := by decide

theorem where_ascending {α : Type} (t : Table α) (f : α → Bool) : (t.where f).Pairwise (· < ·) :=
  allPos_ascending.filter _

/-- Some cell meets a test, position by position. -/
theorem any_eq_allPos {α : Type} (t : Table α) (f : α → Bool) : t.any f = allPos.any fun p => f (t.get p) := by
  have every : t.cells = allPos.map t.get := by
    refine List.ext_getElem (by rw [t.size, List.length_map]; rfl) fun i hi hj => ?_
    have place : ∀ p : Pos, (allPos[p.val]'p.isLt) = p := by decide
    rw [List.getElem_map]
    exact (congrArg t.get (place ⟨i, t.size ▸ hi⟩)).symm
  rw [Table.any, every, List.any_map]
  rfl

/-! ### The partition (R26, R27) -/

theorem sectionZones_eq (bays : Table BayRecord) (x : SectionNo) :
    sectionZones bays x =
      if allPos.any (fun p => (bays.get p).service == .inService && (bays.get p).kind == .feeder && (bays.get p).sectionNo == x &&
        (bays.get p).effective .isolatorA == .closed && (bays.get p).effective .isolatorB == .closed) = true
      then [[zoneA x, zoneB x]] else [[zoneA x], [zoneB x]] := by
  rw [sectionZones, bridged, any_eq_allPos]
  rfl

theorem partitionOf_eq (bays : Table BayRecord) (existing : List BusZone) :
    partitionOf bays existing =
      sectionZones bays .one ++ (if BusZone.a2 ∈ existing then sectionZones bays .two else []) := by
  simp only [partitionOf, List.contains_iff_mem]

/-! ### Members and signs (R28 to R32) -/

theorem shut_iff (b : BayRecord) (e : Element) : b.shut e = true ↔ b.effective e = .closed := beq_iff_eq

theorem inService_iff (b : BayRecord) : b.inService = true ↔ b.service = .inService := beq_iff_eq

theorem memberSign_outside {b : BayRecord} (zs : List BusZone) (h : b.service ≠ .inService) : b.memberSign zs = none :=
  if_neg (mt (inService_iff b).mp h)

theorem memberSign_feeder {b : BayRecord} (zs : List BusZone) (h : b.service = .inService) (hk : b.kind = .feeder) :
    b.memberSign zs =
      if (b.effective .isolatorA = .closed ∧ zoneA b.sectionNo ∈ zs) ∨ (b.effective .isolatorB = .closed ∧ zoneB b.sectionNo ∈ zs)
      then some false else none := by
  simp only [BayRecord.memberSign, if_pos ((inService_iff b).mpr h), hk, Bool.or_eq_true, Bool.and_eq_true, shut_iff,
    List.contains_iff_mem]

theorem memberSign_coupler {b : BayRecord} (zs : List BusZone) (h : b.service = .inService) (hk : b.kind = .coupler) :
    b.memberSign zs =
      if b.effective .breaker = .closed ∧ zoneA b.sectionNo ∈ zs ∧ zoneB b.sectionNo ∉ zs then some true
      else if b.effective .breaker = .closed ∧ zoneA b.sectionNo ∉ zs ∧ zoneB b.sectionNo ∈ zs then some false else none := by
  simp only [BayRecord.memberSign, if_pos ((inService_iff b).mpr h), hk, shut_iff]
  by_cases shut : b.effective .breaker = .closed
  · by_cases inA : zoneA b.sectionNo ∈ zs <;> by_cases inB : zoneB b.sectionNo ∈ zs <;> simp [shut, inA, inB]
  · simp [shut]

theorem memberSign_sectionBay {b : BayRecord} (zs : List BusZone) (h : b.service = .inService) (hk : b.kind = .sectionBay) :
    b.memberSign zs =
      if b.effective .breaker = .closed ∧ zoneOne b.bus ∈ zs then some true
      else if b.effective .breaker = .closed ∧ zoneTwo b.bus ∈ zs then some false else none := by
  simp only [BayRecord.memberSign, if_pos ((inService_iff b).mpr h), hk, shut_iff, List.contains_iff_mem]
  by_cases shut : b.effective .breaker = .closed
  · simp only [shut, if_true, true_and]
  · simp only [shut, if_false, false_and]

theorem mem_membersOf (bays : Table BayRecord) (zs : List BusZone) (p : Pos) (m : Bool) :
    { bay := p, minus := m } ∈ membersOf bays zs ↔ (bays.get p).memberSign zs = some m := by
  simp [membersOf, mem_allPos]

/-- Members stand in the order of the positions they are drawn from. -/
theorem membersOf_ascending (bays : Table BayRecord) (zs : List BusZone) :
    ((membersOf bays zs).map Member.bay).Pairwise (· < ·) := by
  rw [List.pairwise_map, membersOf, List.pairwise_filterMap]
  refine allPos_ascending.imp fun {p q} below m hm n hn => ?_
  obtain ⟨_, _, rfl⟩ := Option.map_eq_some_iff.1 hm
  obtain ⟨_, _, rfl⟩ := Option.map_eq_some_iff.1 hn
  exact below

theorem mem_checkMembers (bays : Table BayRecord) (p : Pos) :
    p ∈ checkMembers bays ↔ (bays.get p).service = .inService ∧ (bays.get p).kind = .feeder := by
  rw [checkMembers, mem_where, BayRecord.liveFeeder, Bool.and_eq_true, inService_iff, beq_iff_eq]

/-! ### The picture of a release (R33, R35) -/

theorem continued_iff (old : Option Picture) (existing zs : List BusZone) (ms : List Member) :
    continued old existing zs ms = true ↔
      ∃ pic, old = some pic ∧ pic.zones.flatMap EffZone.zones = existing ∧
        ∃ y ∈ pic.zones, y.zones = zs ∧ y.members = ms := by
  cases old with
  | none => simp [continued]
  | some pic => simp [continued]

/-- A zone of the picture is unchanged where it continues a zone of the previous one. -/
theorem changed_pictureOf {r : ZoneReplica} {bays : Table BayRecord} {q : Seq} {z : EffZone} (hz : z ∈ (pictureOf r bays q).zones) :
    z.changed = !continued r.picture r.existing z.zones z.members := by
  obtain ⟨zs, _, rfl⟩ := List.mem_map.1 hz
  rfl

theorem checkChanged_pictureOf (r : ZoneReplica) (bays : Table BayRecord) (q : Seq) :
    (pictureOf r bays q).check.changed = false ↔ ∃ old, r.picture = some old ∧ old.check.members = checkMembers bays := by
  unfold pictureOf
  cases r.picture with
  | none => simp
  | some old => simp

/-- Settles O30: the partition, who is a member and with which sign, and what the picture of a release carries. -/
theorem partitionAndMembers : Obligations.PartitionAndMembers := by
  refine ⟨partitionOf_eq, fun bays zs => ⟨mem_membersOf bays zs, membersOf_ascending bays zs, where_ascending bays _⟩,
    fun r bays q => ⟨rfl, ?carries, fun z hz => ?unchanged, rfl, checkChanged_pictureOf r bays q⟩,
    fun bays => ⟨sectionZones_eq bays, fun zs b => memberSign_outside zs, fun zs b h =>
      ⟨memberSign_feeder zs h, memberSign_coupler zs h, memberSign_sectionBay zs h⟩, mem_checkMembers bays⟩⟩
  case carries =>
    simp only [pictureOf, List.map_map]
    rfl
  case unchanged =>
    rw [changed_pictureOf hz, Bool.not_eq_false', continued_iff]
    rfl

/-! ### Blocked states (R37, R38) -/

theorem not_isEmpty_iff {α : Type} (xs : List α) : (!xs.isEmpty) = true ↔ ∃ x, x ∈ xs := by
  rw [Bool.not_eq_true', List.isEmpty_eq_false_iff_exists_mem]

/-- A zone is blocked while a bus zone of it has HOST or CTS, or a member has DATA or TEST_SEEN (R37). -/
theorem blocked_reasonsOf (r : ZoneReplica) (bays : Table BayRecord) (zs : List BusZone) (ms : List Member) :
    (reasonsOf r bays zs ms).blocked = true ↔
      (∃ z ∈ r.busZones, z.zone ∈ zs ∧ (z.host = true ∨ z.cts = true)) ∨
      ∃ m ∈ ms, (bays.get m.bay).data = true ∨ (bays.get m.bay).testSeen = true := by
  simp only [Reasons.blocked, reasonsOf, Bool.or_eq_true, not_isEmpty_iff, List.mem_map, List.mem_filter, Bool.and_eq_true,
    List.contains_iff_mem]
  constructor
  · rintro (((⟨_, z, ⟨hz, inside, host⟩, _⟩ | ⟨_, z, ⟨hz, inside, cts⟩, _⟩) | ⟨_, m, ⟨hm, data⟩, _⟩) | ⟨_, m, ⟨hm, test⟩, _⟩)
    · exact .inl ⟨z, hz, inside, .inl host⟩
    · exact .inl ⟨z, hz, inside, .inr cts⟩
    · exact .inr ⟨m, hm, .inl data⟩
    · exact .inr ⟨m, hm, .inr test⟩
  · rintro (⟨z, hz, inside, host | cts⟩ | ⟨m, hm, data | test⟩)
    · exact .inl (.inl (.inl ⟨_, z, ⟨hz, inside, host⟩, rfl⟩))
    · exact .inl (.inl (.inr ⟨_, z, ⟨hz, inside, cts⟩, rfl⟩))
    · exact .inl (.inr ⟨_, m, ⟨hm, data⟩, rfl⟩)
    · exact .inr ⟨_, m, ⟨hm, test⟩, rfl⟩

theorem checkBlocked_iff (c : CheckZone) : c.blocked = true ↔ c.cts = true ∨ c.data ≠ [] := by
  simp [CheckZone.blocked]

/-- The check zone is blocked while its CTS is set or a member of it has DATA (R38). -/
theorem checkBlocked_pictureOf (r : ZoneReplica) (bays : Table BayRecord) (q : Seq) :
    (pictureOf r bays q).check.blocked = true ↔
      r.checkCts = true ∨ ∃ p, (bays.get p).service = .inService ∧ (bays.get p).kind = .feeder ∧ (bays.get p).data = true := by
  simp only [CheckZone.blocked, pictureOf, Bool.or_eq_true, not_isEmpty_iff, List.mem_filter, mem_checkMembers, and_assoc]

/-! ### Block notices (R40) -/

theorem reportZone_agreeing {s : State} {z : EffZone} (h : s.replica.disagreeing z.zones z.blocked = []) :
    s.reportZone z = s := by
  simp only [State.reportZone, h, List.isEmpty_nil, if_true]

theorem reportZone_disagreeing {s : State} {z : EffZone} (h : s.replica.disagreeing z.zones z.blocked ≠ []) :
    s.reportZone z =
      State.post { s with replica := s.replica.report z.zones z.blocked }
        { subject := .busZone z.name
          detail := if z.blocked then .zoneBlocked z.name z.zones (s.replica.disagreeing z.zones z.blocked) z.reasons
                    else .zoneUnblocked z.name z.zones (s.replica.disagreeing z.zones z.blocked) } :=
  if_neg (mt List.isEmpty_iff.mp h)

/-! ### The Zone Replica's turn (R33, R36) -/

theorem clearChanged_eq (s : State) (pic : Picture) :
    s.clearChanged pic =
      { s with
        zones := s.zones.filter fun st => pic.zones.any fun z => z.name == st.name && !z.members.isEmpty && !z.changed
        check := if pic.check.changed = true ∨ pic.check.members = [] then none else s.check } := by
  simp only [State.clearChanged, Bool.or_eq_true, List.isEmpty_iff]
  rfl

/-- Settles O31: the turn at a release, then what blocks a zone and when a notice is posted. -/
theorem blockedStatesAreReported : Obligations.BlockedStatesAreReported := by
  refine ⟨fun s q => ?turn, fun r bays zs ms => rfl, fun s c => ⟨fun same => if_pos same, fun differs => if_neg differs⟩,
    checkBlocked_iff, blocked_reasonsOf, checkBlocked_pictureOf, fun s z => ⟨reportZone_agreeing, reportZone_disagreeing⟩⟩
  case turn =>
    simp only [State.settlePicture, clearChanged_eq]
    rfl

end Sys2Proof.Proofs
end

section
/-! PROOFS. CT supervision (O49): the counters of a phase, Zone Supervision's turn, and the row CT_SUPERVISION. -/

namespace Sys2Proof.Proofs

open Sys2Proof Sys2Proof.Machine Sys2Proof.Claims

/-! ### Phases -/

@[simp] theorem getPhase_perPhase {α : Type} (f : Phase → α) (ph : Phase) : (perPhase f).get ph = f ph := by cases ph <;> rfl

@[simp] theorem getPhase_map {α β : Type} (f : α → β) (x : PerPhase α) (ph : Phase) : (x.map f).get ph = f (x.get ph) := by
  cases ph <;> rfl

theorem any_iff_phases (x : PerPhase Bool) : x.any id = true ↔ x.phases ≠ [] := by
  obtain ⟨l1, l2, l3⟩ := x
  revert l1 l2 l3
  decide

theorem namedPhases_isEmpty (reach : PerPhase Bool) (ids : PerPhase Nat) :
    (namedPhases reach ids).isEmpty = true ↔ reach.phases = [] := by
  rw [namedPhases, List.isEmpty_map, List.isEmpty_iff]

/-! ### The counters of a phase (R125) -/

theorem counter_step (g : Settings) (standing : PerPhase Bool) (c : CtsState) (ph : Phase) :
    (c.step g standing).counter.get ph =
      if standing.get ph = true then (if c.reported.get ph = true then c.counter.get ph else c.counter.get ph + 1) else 0 :=
  getPhase_perPhase ..

theorem reaching_iff (g : Settings) (standing : PerPhase Bool) (c : CtsState) (ph : Phase) :
    (c.reaching g standing).get ph = true ↔
      standing.get ph = true ∧ c.reported.get ph = false ∧ g.ctsSpan ≤ c.counter.get ph + 1 := by
  simp [CtsState.reaching, and_assoc]

/-- A phase stays reported, or comes to be by reaching the span. -/
theorem reported_step_iff (g : Settings) (standing : PerPhase Bool) (c : CtsState) (ph : Phase) :
    (c.step g standing).reported.get ph = true ↔
      standing.get ph = true ∧ (c.reported.get ph = true ∨ g.ctsSpan ≤ c.counter.get ph + 1) := by
  have stepped : (c.step g standing).reported.get ph =
      (standing.get ph && (c.reported.get ph || (c.reaching g standing).get ph)) := getPhase_perPhase ..
  rw [stepped, Bool.and_eq_true, Bool.or_eq_true, reaching_iff]
  cases c.reported.get ph <;> simp +contextual

/-! ### Standing differentials (R125, R127) -/

theorem standing_eq (g : Settings) (below i : Nat) (complete quiet : Bool) {q : Prop} [Decidable q] (hq : quiet = true ↔ q) :
    (complete && quiet && standingId g below i) = decide (complete = true ∧ q ∧ g.ctsLevel ≤ i ∧ i < below) := by
  rw [Bool.eq_iff_iff]
  simp [standingId, hq, and_assoc]

theorem allQuiet_iff (s : State) : s.allQuiet = true ↔ ∀ st ∈ s.zones, st.classifier.state = .quiet := by
  simp [State.allQuiet]

/-! ### One zone's turn, and the check zone's (R120, R126, R127) -/

theorem superviseCts_eq (s : State) (g : Settings) (st : ZoneState) (standing : PerPhase Bool) (ids : PerPhase Nat) :
    s.superviseCts g st standing ids =
      if (st.cts.reaching g standing).phases = [] then s.putZone { st with cts := st.cts.step g standing }
      else (s.putZone { st with cts := st.cts.step g standing }).requestCts st.name
        ((st.cts.reaching g standing).phases.map fun ph => (ph, ids.get ph)) := by
  simp only [State.superviseCts, namedPhases_isEmpty]
  rfl

theorem superviseCheckCts_eq (s : State) (g : Settings) (c : CheckState) (standing : PerPhase Bool) (ids : PerPhase Nat) :
    s.superviseCheckCts g c standing ids =
      if (c.cts.reaching g standing).phases = [] then { s with check := some { c with cts := c.cts.step g standing } }
      else State.requestCheckCts { s with check := some { c with cts := c.cts.step g standing } }
        ((c.cts.reaching g standing).phases.map fun ph => (ph, ids.get ph)) := by
  simp only [State.superviseCheckCts, namedPhases_isEmpty]
  rfl

theorem superviseZone_none {g : Settings} {s : State} {h : ZoneHand} (gone : s.zones.find? (fun y => y.name == h.name) = none) :
    State.superviseZone g s h = s := by
  simp only [State.superviseZone, gone]

theorem superviseZone_some {g : Settings} {s : State} {h : ZoneHand} {st : ZoneState}
    (found : s.zones.find? (fun y => y.name == h.name) = some st) :
    State.superviseZone g s h =
      s.superviseCts g { st with classifier := classifierStep g h st.classifier }
        (h.result.phases.map fun r =>
          decide (h.result.complete = true ∧ (classifierStep g h st.classifier).state = .quiet ∧ g.ctsLevel ≤ r.id ∧ r.id < g.idmin))
        (h.result.phases.map PhaseResult.id) := by
  simp only [State.superviseZone, found, standing_eq _ _ _ _ _ beq_iff_eq]

theorem superviseCheck_none {g : Settings} {s : State} {h : Option CheckHand} (gone : s.check = none ∨ h = none) :
    State.superviseCheck g h s = s := by
  unfold State.superviseCheck
  rcases gone with gone | rfl
  · rw [gone]
  · cases s.check <;> rfl

theorem superviseCheck_some {g : Settings} {s : State} {k : CheckHand} {c : CheckState} (found : s.check = some c) :
    State.superviseCheck g (some k) s =
      s.superviseCheckCts g c
        (k.result.phases.map fun r =>
          decide (k.result.complete = true ∧ (∀ st ∈ s.zones, st.classifier.state = .quiet) ∧ g.ctsLevel ≤ r.id ∧ r.id < g.czIdmin))
        (k.result.phases.map PhaseResult.id) := by
  simp only [State.superviseCheck, found, standing_eq _ _ _ _ _ (allQuiet_iff s)]

/-! ### The requests (R39) -/

theorem requestCts_pictured {s : State} {pic : Picture} {name : BusZone} {z : EffZone} (phases : List (Phase × Nat))
    (hp : s.replica.picture = some pic) (hz : pic.zones.find? (fun y => y.name == name) = some z) :
    s.requestCts name phases =
      (State.post { s with replica := { s.replica.setCts z.zones with picture := some (pic.withCts name) } }
        { subject := .busZone name, detail := .ctSupervision (some name) z.zones phases }).reportZone z.withCts := by
  have named : s.replica.zoneNamed name = some z := by rw [ZoneReplica.zoneNamed, hp, Option.bind_some, hz]
  simp only [State.requestCts, named, hp, Option.map_some]

theorem requestCheckCts_pictured {s : State} {pic : Picture} (phases : List (Phase × Nat)) (hp : s.replica.picture = some pic) :
    s.requestCheckCts phases =
      (State.post
        { s with replica :=
          { s.replica with checkCts := true, picture := some { pic with check := { pic.check with cts := true } } } }
        { subject := .nobody, detail := .ctSupervision none [] phases }).reportCheck { pic.check with cts := true } := by
  simp only [State.requestCheckCts, hp]

/-! ### CT_SUPERVISION (R126, R127; log entry 3) -/

theorem exec_ctSupervision_zone {s : State} (h : powered s) (z : BusZone) (ids : PerPhase Nat) :
    exec (.ctSupervision (some z) ids) s = .next (s.ctSupervisionZone z ids) := by
  rw [exec, execCtSupervision, event_on h]

theorem exec_ctSupervision_check {s : State} (h : powered s) (ids : PerPhase Nat) :
    exec (.ctSupervision none ids) s = .next (s.ctSupervisionCheck ids) := by
  rw [exec, execCtSupervision, event_on h]

/-- The row's condition on a zone that is QUIET: some phase reaches the span. -/
theorem ctSupervisionZone_reaching {s : State} {st : ZoneState} {ids : PerPhase Nat}
    (found : s.zones.find? (fun y => y.name == st.name) = some st) (quiet : st.classifier.state = .quiet)
    (reaches : (st.cts.reaching s.active
      (ids.map fun i => decide (s.active.ctsLevel ≤ i ∧ i < s.active.idmin))).phases ≠ []) :
    s.ctSupervisionZone st.name ids =
      s.superviseCts s.active st (ids.map fun i => decide (s.active.ctsLevel ≤ i ∧ i < s.active.idmin)) ids := by
  have standing : (fun i => st.classifier.state == .quiet && standingId s.active s.active.idmin i) =
      fun i => decide (s.active.ctsLevel ≤ i ∧ i < s.active.idmin) := by
    funext i
    simp [quiet, standingId]
  simp only [State.ctSupervisionZone, found, standing, if_pos ((any_iff_phases _).mpr reaches)]

/-- The row's condition on the check zone while every zone is QUIET. -/
theorem ctSupervisionCheck_reaching {s : State} {c : CheckState} {ids : PerPhase Nat} (found : s.check = some c)
    (quiet : ∀ st ∈ s.zones, st.classifier.state = .quiet)
    (reaches : (c.cts.reaching s.active
      (ids.map fun i => decide (s.active.ctsLevel ≤ i ∧ i < s.active.czIdmin))).phases ≠ []) :
    s.ctSupervisionCheck ids =
      s.superviseCheckCts s.active c (ids.map fun i => decide (s.active.ctsLevel ≤ i ∧ i < s.active.czIdmin)) ids := by
  have standing : (fun i => s.allQuiet && standingId s.active s.active.czIdmin i) =
      fun i => decide (s.active.ctsLevel ≤ i ∧ i < s.active.czIdmin) := by
    funext i
    simp [(allQuiet_iff s).mpr quiet, standingId]
  simp only [State.ctSupervisionCheck, found, standing, if_pos ((any_iff_phases _).mpr reaches)]

/-- Settles O49: the counters phase by phase, the turn zone by zone, and the row on a zone and on the check zone. -/
theorem ctSupervisionSetsCts : Obligations.CtSupervisionSetsCts := by
  refine ⟨fun g standing c ph => ⟨counter_step g standing c ph, reaching_iff g standing c ph, reported_step_iff g standing c ph⟩,
    fun g s h => ⟨superviseZone_none, fun st found => ?zone⟩, fun g s h => ⟨superviseCheck_none, fun c k found given => ?check⟩,
    fun s g hands check => rfl, fun ids pic s h hp => ⟨fun st z found inPicture quiet => ?zoneRow, fun c found quiet => ?checkRow⟩⟩
  case zone =>
    rw [superviseZone_some found, superviseCts_eq]
    simp only [getPhase_map]
    rfl
  case check =>
    subst given
    rw [superviseCheck_some found, superviseCheckCts_eq]
    simp only [getPhase_map]
  case zoneRow =>
    intro standing reach reaches
    rw [exec_ctSupervision_zone h, ctSupervisionZone_reaching found quiet reaches, superviseCts_eq, if_neg reaches]
    exact congrArg Host.Outcome.next (requestCts_pictured _ hp inPicture)
  case checkRow =>
    intro standing reach reaches
    rw [exec_ctSupervision_check h, ctSupervisionCheck_reaching found quiet reaches, superviseCheckCts_eq, if_neg reaches]
    exact congrArg Host.Outcome.next (requestCheckCts_pictured _ hp)

end Sys2Proof.Proofs
end

section
/-! PROOFS. Sequence numbers (O32), posting and FETCH_NOTICES (O8), the boundary decision and the exchange (O60). -/

namespace Sys2Proof.Proofs

open Sys2Proof Sys2Proof.Machine Sys2Proof.Claims

/-! ### Sequence numbers (R44) -/

theorem toNat_seq_sub (s t : Seq) : (s - t).toNat = (s.toNat + 65536 - t.toNat) % 65536 := by
  have hs := s.isLt
  have ht := t.isLt
  rw [BitVec.toNat_sub]
  omega

theorem toNat_seqOf (k : Nat) : (seqOf k).toNat = k % 65536 := BitVec.toNat_ofNat k 16

theorem ahead_iff (s t : Seq) :
    ahead s t = true ↔ 1 ≤ (s.toNat + 65536 - t.toNat) % 65536 ∧ (s.toNat + 65536 - t.toNat) % 65536 ≤ 32767 := by
  rw [← toNat_seq_sub, ahead, Bool.and_eq_true, decide_eq_true_eq, decide_eq_true_eq]

theorem ahead_self (s : Seq) : ahead s s = false := by
  rw [ahead, BitVec.sub_self]
  rfl

/-- Settles O32, by the natural number of a difference of sequence numbers. -/
theorem sequenceNumbersCompareOverHalfTheRange : Obligations.SequenceNumbersCompareOverHalfTheRange := by
  refine fun s t => ⟨ahead_iff s t, rfl, ahead_self s, ahead_self s, Nat.le_of_lt_succ s.isLt, fun k => ⟨?sum, ?difference⟩⟩
  case sum => rw [BitVec.toNat_add, toNat_seqOf, Nat.add_mod_mod]
  case difference => rw [toNat_seq_sub, toNat_seqOf]

/-! ### Notices (R51, R176 to R178) -/

/-- FETCH_NOTICES with yes or no: what the queue, the counter, ATTN and armed become (R177, R178). -/
theorem askFetchNotices_read {rearm : Nat} (s : State) (h : rearm ≤ 1) :
    askFetchNotices rearm s =
      State.answer { s with port := s.port.fetched (rearm == 1) } .ok
        (.notices (s.port.notices.take 8) (s.port.notices.drop 8).length s.port.lostNotices) := by
  rw [askFetchNotices, yesNo_some h]
  rfl

theorem fetched_eq (q : Port) (rearm : Bool) :
    q.fetched rearm =
      { q with
        notices := q.notices.drop 8, lostNotices := 0
        attn := !(q.notices.drop 8).isEmpty && (q.attn || rearm)
        armed := if rearm = true then (q.notices.drop 8).isEmpty else q.armed } := by
  have attn : ∀ b c : Bool, (if b = true then false else c) = (!b && c) := by decide
  simp only [Port.fetched, attn]
  rfl

theorem askFetchNotices_outside {rearm : Nat} (s : State) (h : 1 < rearm) : askFetchNotices rearm s = s.answer .badValue := by
  rw [askFetchNotices, yesNo_none h]

/-- Settles O8: a posted notice joins the queue or is counted, and a fetch is answered by its operand. -/
theorem noticesJoinAndAreFetched : Obligations.NoticesJoinAndAreFetched := by
  refine ⟨fun s r => rfl, fun rearm s h => ?fetch⟩
  case fetch =>
    by_cases yes_or_no : rearm ≤ 1
    · rw [if_pos (by omega)]
      refine (request_answers h (askFetchNotices_read s yes_or_no)).trans ?_
      rw [fetched_eq]
      simp only [beq_iff_eq]
    · rw [if_neg (by omega)]
      exact request_answers h (askFetchNotices_outside s (by omega))

/-! ### The decision at a block boundary (R58, R159) -/

theorem boundary_iff (q : Seq) : boundary q = true ↔ q.toNat % 256 = 255 := beq_iff_eq

theorem anyLatch_iff (s : State) : s.anyLatch = true ↔ ∃ p, (s.tripState p).latched = true := by
  simp only [State.anyLatch, any_eq_allPos, List.any_eq_true, mem_allPos, true_and, State.tripState]

/-- A latch passes the boundary over, and where there is none a zone that is not QUIET does (R159). -/
theorem passReason_eq (s : State) :
    s.passReason =
      if ∃ p, (s.tripState p).latched = true then some .latch
      else if ∀ st ∈ s.zones, st.classifier.state = .quiet then none else some .notQuiet := by
  simp only [State.passReason, anyLatch_iff, allQuiet_iff]

theorem passReason_none {s : State} (clear : ∀ p, (s.tripState p).latched = false)
    (quiet : ∀ st ∈ s.zones, st.classifier.state = .quiet) : s.passReason = none := by
  rw [passReason_eq, if_neg (by simp [clear]), if_pos quiet]

/-- The release of q, taken under this protection state, decides on a pending switch (R159). -/
def decidesAt (s : State) (q : Seq) (taken : Protection) : Prop :=
  q.toNat % 256 = 255 ∧ s.settings.switchPending = true ∧ taken = .running

theorem decidesAt_iff (s : State) (q : Seq) (taken : Protection) :
    (boundary q && s.settings.switchPending && taken == .running) = true ↔ decidesAt s q taken := by
  simp only [decidesAt, Bool.and_eq_true, boundary_iff, beq_iff_eq, and_assoc]

theorem decideBoundary_elsewhere {s : State} {q : Seq} {taken : Protection} (h : ¬ decidesAt s q taken) :
    s.decideBoundary q taken = s := if_neg (mt (decidesAt_iff s q taken).mp h)

theorem decideBoundary_exchange {s : State} {q : Seq} {taken : Protection} (h : decidesAt s q taken) (free : s.passReason = none) :
    s.decideBoundary q taken = s.exchange (.boundary q) := by
  rw [State.decideBoundary, if_pos ((decidesAt_iff s q taken).mpr h), free]

theorem decideBoundary_passed {s : State} {q : Seq} {taken : Protection} {r : PassReason} (h : decidesAt s q taken)
    (why : s.passReason = some r) : s.decideBoundary q taken = { s with settings := s.settings.passedOver r } := by
  rw [State.decideBoundary, if_pos ((decidesAt_iff s q taken).mpr h), why]

/-- Settles O60: the decision by why it passes the boundary over, the exchange written out, and the row at a boundary. -/
theorem boundarySwitchExchangesTheGroups : Obligations.BoundarySwitchExchangesTheGroups := by
  refine ⟨fun s q taken => ?decision, fun x s => rfl, fun s h atBoundary pending running clear quiet => ?row⟩
  case decision =>
    by_cases decides : decidesAt s q taken
    · refine Eq.trans ?_ (if_pos decides).symm
      by_cases latched : ∃ p, (s.tripState p).latched = true
      · rw [if_pos latched, decideBoundary_passed decides ((passReason_eq s).trans (if_pos latched))]
        rfl
      · rw [if_neg latched]
        have why := (passReason_eq s).trans (if_neg latched)
        by_cases quiet : ∀ st ∈ s.zones, st.classifier.state = .quiet
        · rw [if_pos quiet, decideBoundary_exchange decides (why.trans (if_pos quiet))]
        · rw [if_neg quiet, decideBoundary_passed decides (why.trans (if_neg quiet))]
          rfl
    · exact (decideBoundary_elsewhere decides).trans (if_neg decides).symm
  case row =>
    have due :
        (boundary s.next && s.settings.switchPending && s.controller.protection == .running && s.passReason.isNone) = true := by
      simp only [(boundary_iff s.next).mpr atBoundary, pending, running, passReason_none clear quiet]
      rfl
    exact (event_on h).trans (congrArg Host.Outcome.next (if_pos due))

end Sys2Proof.Proofs
end

section
/-! PROOFS. Releases (O35): when next_release is due, the steps of a release, and releases in succession. -/

namespace Sys2Proof.Proofs

open Sys2Proof Sys2Proof.Machine Sys2Proof.Claims

/-! ### When (R52) -/

theorem framesComplete_iff (s : State) :
    s.framesComplete = true ↔ ∀ p, (s.bay p).service = .inService → ∃ f ∈ (s.linkPool p).frames, f.sequence = s.next := by
  simp only [State.framesComplete, findFrame, List.all_eq_true, mem_allPos, true_implies, Bool.or_eq_true, Bool.not_eq_true',
    List.find?_isSome, beq_iff_eq, ← Bool.not_eq_true, inService_iff, ← imp_iff_not_or]

theorem releaseDue_iff (s : State) :
    s.releaseDue = true ↔
      ahead s.next s.clock.current = false ∧
      ((s.controller.protection = .running ∧
          ∀ p, (s.bay p).service = .inService → ∃ f ∈ (s.linkPool p).frames, f.sequence = s.next) ∨
        reached s.clock.current (s.next + seqOf s.depth) = true) := by
  simp only [State.releaseDue, Bool.and_eq_true, Bool.or_eq_true, Bool.not_eq_true', beq_iff_eq, framesComplete_iff]

/-! ### The steps of a release (R54) -/

theorem hands_get (s : State) (q : Seq) (p : Pos) :
    (s.hands q).get p = if (s.bay p).configured then (s.bayStep q p).hand else .none := Table.get_build ..

theorem protect_none {s : State} (q : Seq) (hands : Table BayHand) (timing : List Pos) (h : s.replica.picture = none) :
    s.protect q hands timing = s := by
  rw [State.protect, h]

theorem protect_some {s : State} {pic : Picture} (q : Seq) (hands : Table BayHand) (timing : List Pos)
    (h : s.replica.picture = some pic) :
    s.protect q hands timing =
      ((s.evaluate pic hands).supervise s.active ((s.evaluated pic hands).map Prod.snd)
        ((s.evaluatedCheck pic hands).map Prod.snd)).tripWork q hands timing := by
  rw [State.protect, h]

theorem freeFrame_eq (q : Seq) (fs : List StoredFrame) : freeFrame q fs = fs.filter fun f => decide (f.sequence ≠ q) :=
  List.filter_congr fun f _ => by simp [bne, beq_eq_decide]

theorem freeSlots_eq (s : State) (q : Seq) :
    s.freeSlots q =
      { s with pool := s.pool.map fun k => { k with frames := k.frames.filter fun f => decide (f.sequence ≠ q) } } := by
  simp only [State.freeSlots, freeFrame_eq]

/-! ### Releases in succession (R53) -/

/-- How many sequences next_release is behind the current one. -/
def backlog (s : State) : Nat := (s.clock.current - s.next).toNat

theorem backlog_release (s : State) : backlog s.release = (s.clock.current - (s.next + 1)).toNat := by
  unfold backlog State.next
  rw [clock_release, releaseUnit_release]
  rfl

/-- A due sequence is not ahead of the current one, so at most half the range lies before it. -/
theorem backlog_of_due {s : State} (h : s.releaseDue = true) : backlog s ≤ 32768 := by
  have notAhead := ((releaseDue_iff s).mp h).1
  rw [← Bool.not_eq_true, ahead_iff] at notAhead
  have hn := s.next.isLt
  have hc := s.clock.current.isLt
  rw [backlog, toNat_seq_sub]
  omega

/-- The release of a due sequence leaves one sequence fewer, or one that is not due. -/
theorem backlog_falls {s : State} (h : s.release.releaseDue = true) : backlog s.release + 1 = backlog s := by
  have few := backlog_of_due h
  have hn := s.next.isLt
  have hc := s.clock.current.isLt
  rw [backlog_release, toNat_seq_sub, BitVec.toNat_add, toNat_one] at few ⊢
  rw [backlog, toNat_seq_sub]
  omega

/-- As much fuel as there are sequences behind the current one brings next_release to one that is not due. -/
theorem settleBy_done : ∀ (n : Nat) {s : State}, (s.releaseDue = true → backlog s < n) → (s.settleBy n).releaseDue = false
  | 0, s, enough => by
    rw [← Bool.not_eq_true]
    exact fun due => absurd (enough due) (Nat.not_lt_zero _)
  | n + 1, s, enough => by
    unfold State.settleBy
    split
    case isTrue due =>
      refine settleBy_done n fun again => ?_
      have fewer := backlog_falls again
      have bound := enough due
      omega
    case isFalse ended => rwa [Bool.not_eq_true] at ended

/-- More fuel than that changes nothing. -/
theorem settleBy_more : ∀ (n : Nat) {s : State}, (s.settleBy n).releaseDue = false → s.settleBy (n + 1) = s.settleBy n
  | 0, s, ended => if_neg (Bool.not_eq_true _ ▸ ended)
  | n + 1, s, ended => by
    unfold State.settleBy at ended ⊢
    split at ended
    case isTrue due => rw [if_pos due, if_pos due, settleBy_more n ended]
    case isFalse idle => rw [if_neg idle, if_neg idle]

theorem settle_done (s : State) : s.settle.releaseDue = false :=
  settleBy_done 65536 fun due => Nat.lt_of_le_of_lt (backlog_of_due due) (by decide)

theorem settle_idle {s : State} (h : s.releaseDue = false) : s.settle = s := by
  unfold State.settle State.settleBy
  rw [h]
  rfl

theorem settle_due {s : State} (h : s.releaseDue = true) : s.settle = s.release.settle := by
  have enough : (s.release.settleBy 65535).releaseDue = false :=
    settleBy_done 65535 fun due => Nat.lt_of_le_of_lt (backlog_of_due due) (by decide)
  calc s.settle = s.release.settleBy 65535 := if_pos h
    _ = s.release.settle := (settleBy_more 65535 enough).symm

/-! ### O35 -/

theorem exec_release_idle {s : State} (h : powered s) (idle : s.releaseDue = false) : exec .release s = .next s :=
  (event_on h).trans (congrArg Host.Outcome.next (if_neg (by simp [idle])))

theorem exec_release_due {s : State} (h : powered s) (due : s.releaseDue = true) : exec .release s = .next s.release :=
  (event_on h).trans (congrArg Host.Outcome.next (if_pos due))

/-- Settles O35: the condition, the seven steps, settling by the sequences that are left, and the row. -/
theorem releaseWhenDue : Obligations.ReleaseWhenDue := by
  refine ⟨fun s => rfl, hands_get, fun s q hands timing => ⟨protect_none q hands timing, fun pic => protect_some q hands timing⟩,
    fun s q => ⟨freeSlots_eq s q, rfl⟩, fun s => ⟨settle_idle, settle_due, settle_done s⟩,
    fun s h => ⟨releaseDue_iff s, exec_release_idle h, fun due => ?released⟩⟩
  case released =>
    exact ⟨s.release, exec_release_due h due, rfl, releaseUnit_release s, fun p f hf => frames_release s p f hf, clock_release s,
      (holds_release s).pending, (holds_release s).pins⟩

end Sys2Proof.Proofs
end

section
/-! PROOFS. Sample boundaries (O33): the timers of links, bays and the wait, then the clock, the frames and the releases. -/

namespace Sys2Proof.Proofs

open Sys2Proof Sys2Proof.Machine Sys2Proof.Claims

/-! ### The timers of a link (R65, R67, R69, R74) -/

/-- The bring-up timer of a link in HUNT, LOCK or MEASURE: the bring-up ends TIMEOUT with its last SP (R67, R72). -/
theorem tickTimer_bringing {s : State} {p : Pos} (h : (s.link p).state.bringingUp = true) :
    s.tickTimer p =
      if ((s.link p).timer.any fun n => decide (n ≤ 1)) = true then timedOut s p
      else s.modLink p fun l => { l with timer := l.timer.map fun n => n - 1 } := by
  rw [State.tickTimer, LinkRecord.runsOut, h, Bool.true_and]
  rfl

theorem goesSilent_iff (l : LinkRecord) : l.goesSilent = true ↔ 16 ≤ upTo16 l.sinceGood := decide_eq_true_iff

/-- A link before its bring-up timer falls at a boundary: silent in LOCK or MEASURE it is back in HUNT (log entry 27). -/
def agedLink (s : State) (p : Pos) : State :=
  if (s.link p).goesSilent then s.timeLock p else s.modLink p LinkRecord.age

theorem agedLink_eq (s : State) (p : Pos) :
    agedLink s p =
      if 16 ≤ upTo16 (s.link p).sinceGood then
        (s.modLink p fun l => { l with sinceGood := upTo16 l.sinceGood }).modLink p
          fun l => { l with state := .hunt, good := 0, lastGood := none }
      else s.modLink p fun l => { l with sinceGood := upTo16 l.sinceGood } := by
  simp only [agedLink, goesSilent_iff, State.timeLock, State.modLink, Table.modify_modify]
  rfl

theorem timer_agedLink (s : State) (p : Pos) : ((agedLink s p).link p).timer = (s.link p).timer := by
  unfold agedLink State.timeLock
  split <;> rw [link_modLink] <;> rfl

theorem bringingUp_agedLink {s : State} {p : Pos} (h : (s.link p).state.bringingUp = true) :
    ((agedLink s p).link p).state.bringingUp = true := by
  unfold agedLink State.timeLock
  split
  · rw [link_modLink]; rfl
  · rw [link_modLink]; exact h

/-- In LOCK and MEASURE the silence comes first, then the bring-up timer. -/
theorem tickTimer_agedLink {s : State} {p : Pos} (h : (s.link p).state.bringingUp = true) :
    (agedLink s p).tickTimer p =
      if ((s.link p).timer.any fun n => decide (n ≤ 1)) = true then timedOut (agedLink s p) p
      else (agedLink s p).modLink p fun l => { l with timer := l.timer.map fun n => n - 1 } := by
  rw [tickTimer_bringing (bringingUp_agedLink h), timer_agedLink]

theorem tickLink_hunt {s : State} {p : Pos} (h : (s.link p).state = .hunt) :
    s.tickLink p = (s.modLink p LinkRecord.age).tickTimer p := by
  rw [State.tickLink, h]

theorem tickLink_lock {s : State} {p : Pos} (h : (s.link p).state = .lock) : s.tickLink p = (agedLink s p).tickTimer p := by
  rw [State.tickLink, h]; rfl

theorem tickLink_measure {s : State} {p : Pos} (h : (s.link p).state = .measure) :
    s.tickLink p = (agedLink s p).tickTimer p := by
  rw [State.tickLink, h]; rfl

theorem tickLink_active {s : State} {p : Pos} (h : (s.link p).state = .active) :
    s.tickLink p = if 16 ≤ upTo16 (s.link p).sinceGood then syncLost s p else s.modLink p LinkRecord.age := by
  simp only [State.tickLink, h, goesSilent_iff]
  rfl

theorem tickLink_closed {s : State} {p : Pos} (h : (s.link p).state = .down ∨ (s.link p).state = .dormant) : s.tickLink p = s := by
  rcases h with h | h <;> rw [State.tickLink, h]

/-! ### The timers of a bay (R140, R152) -/

/-- A latch after a boundary of its echo timer. -/
def tickedLatch (l : Latch) : Latch :=
  { l with echo := if (l.echo.any fun n => decide (n ≤ 1)) = true then none else l.echo.map fun n => n - 1 }

theorem tick_eq (l : Latch) : l.tick = tickedLatch l := by
  unfold Latch.tick Latch.runsOut tickedLatch
  split <;> rfl

/-- TRIP_UNCONFIRMED of a latch whose echo timer runs out. -/
def unconfirmed (p : Pos) (k : LatchKind) (l : Latch) (s : State) : State :=
  if (l.echo.any fun n => decide (n ≤ 1)) = true then s.post { subject := .bay p, detail := .tripUnconfirmed k l.sequence } else s

theorem tickLatch_eq (s : State) (p : Pos) (k : LatchKind) :
    s.tickLatch p k =
      unconfirmed p k ((s.tripState p).latch k) (s.modTrip p fun t => t.withLatch k (tickedLatch (t.latch k))) := by
  simp only [State.tickLatch, tick_eq, unconfirmed]
  split
  case isTrue h => exact (if_pos h).symm
  case isFalse h => exact (if_neg h).symm

/-- Posting touches no trip state, so a change of one passes it. -/
theorem unconfirmed_modTrip (s : State) (p : Pos) (k : LatchKind) (l : Latch) (f : TripState → TripState) :
    (unconfirmed p k l s).modTrip p f = unconfirmed p k l (s.modTrip p f) := by
  unfold unconfirmed
  split <;> rfl

theorem tripState_unconfirmed (s : State) (p q : Pos) (k : LatchKind) (l : Latch) :
    (unconfirmed p k l s).tripState q = s.tripState q := by
  unfold unconfirmed
  split <;> rfl

/-- Both latches of a bay after a boundary. -/
def tickedLatches (s : State) (p : Pos) : State :=
  unconfirmed p .transferTrip (s.tripState p).transfer
    (unconfirmed p .trip (s.tripState p).trip
      (s.modTrip p fun t => { t with trip := tickedLatch t.trip, transfer := tickedLatch t.transfer }))

theorem tickLatches_eq (s : State) (p : Pos) : (s.tickLatch p .trip).tickLatch p .transferTrip = tickedLatches s p := by
  rw [tickLatch_eq (s.tickLatch p .trip), tickLatch_eq s, unconfirmed_modTrip, modTrip_modTrip, tripState_unconfirmed,
    tripState_modTrip]
  rfl

theorem inFlight_tickedLatches (s : State) (p : Pos) : ((tickedLatches s p).tripState p).inFlight = (s.tripState p).inFlight := by
  rw [tickedLatches, tripState_unconfirmed, tripState_unconfirmed, tripState_modTrip]

theorem tickOrder_none {s : State} {p : Pos} (h : (s.tripState p).inFlight = none) : s.tickOrder p = s := by
  rw [State.tickOrder, h]

theorem tickOrder_some {s : State} {p : Pos} {f : Flight} (h : (s.tripState p).inFlight = some f) :
    s.tickOrder p =
      if f.timer ≤ 1 then (landed s p).post { subject := .bay p, detail := .orderTimeout f.order.kind f.order.tag }
      else s.modTrip p fun t => { t with inFlight := some { f with timer := f.timer - 1 } } := by
  rw [State.tickOrder, h]
  rfl

theorem tickBay_eq (s : State) (p : Pos) : s.tickBay p = (tickedLatches s p).tickOrder p := by
  rw [State.tickBay, tickLatches_eq]

/-! ### The wait timer (R166, R168) -/

theorem clockUnmet_eq (s : State) : (!s.clockMet) = (s.controller.station.markRequired && s.clock.state != .locked) := by
  simp [State.clockMet, bne]

/-- The wait timer's last SP ends the start with the conditions not met (R168). -/
theorem failStart_eq (s : State) :
    s.failStart =
      startEnded s .halted
        (.notMet (allPos.filter fun p => (s.bay p).service == .inService && (s.link p).state != .active)
          (s.controller.station.markRequired && s.clock.state != .locked)) := by
  rw [State.failStart, State.unmet, clockUnmet_eq]
  rfl

theorem tickWait_elsewhere {s : State} (h : s.controller.protection ≠ .starting) : s.tickWait = s := by
  rw [State.tickWait, if_neg (by simp [State.startRunsOut, h]), if_neg h]

theorem tickWait_stopped {s : State} (h : s.controller.protection = .starting) (stopped : s.controller.waitTimer = none) :
    s.tickWait = s := by
  rw [State.tickWait, if_neg (by simp [State.startRunsOut, stopped]), if_pos h, stopped, Option.map_none, ← stopped]

theorem tickWait_running {s : State} {n : Nat} (h : s.controller.protection = .starting)
    (timer : s.controller.waitTimer = some n) :
    s.tickWait =
      if n ≤ 1 then s.failStart else { s with controller := { s.controller with waitTimer := some (n - 1) } } := by
  simp only [State.tickWait, State.startRunsOut, h, timer, beq_self_eq_true, Bool.true_and, Option.any_some, decide_eq_true_eq,
    if_true, Option.map_some]

/-! ### The boundary (R43, R48) -/

theorem clock_boundaryWork (s : State) :
    s.boundaryWork.clock = s.restartIfPending.clock.boundary s.restartIfPending.controller.station.frequency := by
  let u := s.restartIfPending.advanceClock
  have timers : u.sendFrames.tickTimers.clock = u.sendFrames.clock :=
    ((keeps_tickLinks _).trans ((keeps_tickTrips _).trans (keeps_tickWait _))).clock
  calc s.boundaryWork.clock = u.sendFrames.tickTimers.clock := clock_settle _
    _ = u.sendFrames.clock := timers
    _ = u.clock := (keeps_sendFrames u).clock

/-- Settles O33: link by its state, bay by its order in flight, the wait by its timer, then the boundary's work in its order. -/
theorem sampleBoundaryAdvancesTheClock : Obligations.SampleBoundaryAdvancesTheClock := by
  refine ⟨fun s => rfl, fun s p => ?link, fun s p => ?bay, fun s => ?wait, fun s h => ?boundary⟩
  case link =>
    cases state : (s.link p).state with
    | down => exact tickLink_closed (.inl state)
    | dormant => exact tickLink_closed (.inr state)
    | hunt =>
      have aged : ((s.modLink p LinkRecord.age).link p).state.bringingUp = true := by rw [link_modLink]; exact congrArg _ state
      rw [tickLink_hunt state, tickTimer_bringing aged, link_modLink]
      rfl
    | lock =>
      rw [tickLink_lock state, tickTimer_agedLink (by rw [state]; rfl), agedLink_eq]
    | measure =>
      rw [tickLink_measure state, tickTimer_agedLink (by rw [state]; rfl), agedLink_eq]
    | active => exact tickLink_active state
  case bay =>
    rw [tickBay_eq]
    cases flight : (s.tripState p).inFlight with
    | none =>
      simp only [flight]
      exact tickOrder_none ((inFlight_tickedLatches s p).trans flight)
    | some f =>
      simp only [flight]
      exact tickOrder_some ((inFlight_tickedLatches s p).trans flight)
  case wait =>
    by_cases starting : s.controller.protection = .starting
    · rw [if_pos starting]
      cases timer : s.controller.waitTimer with
      | none => exact tickWait_stopped starting timer
      | some n => rw [tickWait_running starting timer, failStart_eq]
    · rw [if_neg starting, tickWait_elsewhere starting]
  case boundary =>
    have kept := holds_boundaryWork s
    exact ⟨s.boundaryWork, event_on h, rfl, clock_boundaryWork s, kept.pending, kept.pins⟩

end Sys2Proof.Proofs
end

section
/-! PROOFS. Marks (O34): the clock after a mark, a rise of the missing count and a time-out, and what a change of its state brings. -/

namespace Sys2Proof.Proofs

open Sys2Proof Sys2Proof.Machine Sys2Proof.Claims

/-! ### A change of clock state (R49, R167) -/

theorem notActive_isEmpty_iff (s : State) :
    s.notActive.isEmpty = true ↔ ∀ p, (s.bay p).service = .inService → (s.link p).state = .active := by
  simp [State.notActive, List.filter_eq_nil_iff, mem_allPos, inService_iff]

theorem clockMet_iff (s : State) :
    s.clockMet = true ↔ (s.controller.station.markRequired = true → s.clock.state = .locked) := by
  simp [State.clockMet, imp_iff_not_or]

theorem startHolds_iff (s : State) :
    s.startHolds = true ↔ s.controller.protection = .starting ∧
      (∀ p, (s.bay p).service = .inService → (s.link p).state = .active) ∧
      (s.controller.station.markRequired = true → s.clock.state = .locked) := by
  simp only [State.startHolds, State.startCondition, Bool.and_eq_true, beq_iff_eq, notActive_isEmpty_iff, clockMet_iff]

/-- The start succeeds with the evaluation dropped (R113, R167). -/
theorem succeedStart_eq (s : State) : s.succeedStart = startEnded { s with zones := [], check := none } .running .ok := rfl

/-- A test of the start condition after which the due releases are made only where the start succeeded (R53, R167). -/
theorem settleAfter_testStart {s t : State} (same : t.controller.protection = s.controller.protection) :
    State.settleAfter s t.testStart = if t.startHolds then t.succeedStart.settle else t := by
  by_cases holds : t.startHolds = true
  · have starting := ((startHolds_iff t).mp holds).1
    have changed : t.succeedStart.controller.protection ≠ s.controller.protection := by
      rw [← same, starting]
      exact Protection.noConfusion
    simp only [State.testStart, if_pos holds]
    exact if_neg changed
  · simp only [State.testStart, if_neg holds]
    exact if_pos same

theorem changeClock_stands {s : State} {c : Clock} (cause : ClockCause) (h : c.state = s.clock.state) :
    s.changeClock c cause = { s with clock := c } := if_pos h

theorem changeClock_changes {s : State} {c : Clock} (cause : ClockCause) (h : c.state ≠ s.clock.state) :
    s.changeClock c cause = clockChanged s c cause := by
  rw [State.changeClock, if_neg h, settleAfter_testStart (by rfl)]
  simp only [startHolds_iff, succeedStart_eq]
  rfl

/-! ### Marks (R45 to R48) -/

theorem regular_eq (c : Clock) (f : Frequency) (elapsed : Nat) :
    c.regular f elapsed =
      (c.marked && decide (((elapsed : Int) - 1000000000).natAbs * (4 * if f = .hz50 then 2400 else 2880) ≤ 1000000000)) := by
  cases f <;> rfl

/-- A third regular mark in a row locks the clock, and one irregular mark ends LOCKED (R47). -/
theorem state_afterMark (st : ClockState) (regular : Bool) (run : Nat) :
    st.afterMark regular run =
      if regular ∧ 3 ≤ run then .locked
      else match st with
        | .free => .free
        | .locked => if regular then .locked else .holdover
        | .holdover => .holdover := by
  cases st with
  | free | holdover => simp [ClockState.afterMark]
  | locked => cases regular <;> simp [ClockState.afterMark]

/-- The clock after a mark, field by field. -/
theorem afterMark_eq (c : Clock) (regular : Bool) (phase : Int) :
    c.afterMark regular phase =
      { c with
        atMark := c.current, phaseError := phase, markCount := c.markCount + 1, sinceMark := 0, marked := true, missing := 0
        regularRun := if regular then min (c.regularRun + 1) 255 else 0
        state := c.state.afterMark regular (if regular then min (c.regularRun + 1) 255 else 0)
        outstanding :=
          if c.state.afterMark regular (if regular then min (c.regularRun + 1) 255 else 0) = .locked then phase
          else c.outstanding } := rfl

/-- Where a mark changes the clock state, it is a regular mark that locks it, or an irregular one that ends LOCKED. -/
theorem locked_of_changed {st : ClockState} {regular : Bool} {run : Nat} (h : st.afterMark regular run ≠ st) :
    st.afterMark regular run = .locked ↔ regular = true := by
  rw [state_afterMark] at h ⊢
  cases regular with
  | true => cases st <;> simp_all
  | false => cases st <;> simp_all

/-- The cause of a change by a mark is read off the new state (R47). -/
theorem changeClock_afterMark (s : State) (regular : Bool) (phase : Int) :
    s.changeClock (s.clock.afterMark regular phase) (if regular then .regularMarks else .irregularMark) =
      if (s.clock.afterMark regular phase).state = s.clock.state then { s with clock := s.clock.afterMark regular phase }
      else clockChanged s (s.clock.afterMark regular phase)
        (if (s.clock.afterMark regular phase).state = .locked then .regularMarks else .irregularMark) := by
  by_cases stands : (s.clock.afterMark regular phase).state = s.clock.state
  · rw [if_pos stands, changeClock_stands _ stands]
  · have locks : (s.clock.afterMark regular phase).state = .locked ↔ regular = true := locked_of_changed stands
    rw [if_neg stands, changeClock_changes _ stands]
    simp only [locks]

theorem exec_mark {s : State} (elapsed : Nat) (phase : Int) (h : powered s) :
    exec (.mark elapsed phase) s =
      .next (s.changeClock (s.clock.afterMark (s.clock.regular s.controller.station.frequency elapsed) phase)
        (if s.clock.regular s.controller.station.frequency elapsed then .regularMarks else .irregularMark)) := by
  simp only [exec, execMark, event_on h]

/-! ### The missing count and the time-out (R46, R47) -/

theorem missed_counts {c : Clock} (h : ¬ (c.state = .holdover ∧ 60 ≤ min (c.missing + 1) 255)) :
    c.missed = { c with missing := min (c.missing + 1) 255, regularRun := 0 } := if_neg h

theorem missed_frees {c : Clock} (h : c.state = .holdover ∧ 60 ≤ min (c.missing + 1) 255) :
    c.missed = { c with missing := min (c.missing + 1) 255, regularRun := 0, state := .free, outstanding := 0 } := if_pos h

theorem exec_missingCountRise {s : State} (h : powered s) :
    exec .missingCountRise s = .next (if s.clock.marked then s.changeClock s.clock.missed .marksMissing else s) := event_on h

theorem exec_markTimeout {s : State} (h : powered s) :
    exec .markTimeout s =
      .next (if s.clock.state = .locked then s.changeClock { s.clock with state := .holdover } .markTimeout else s) := event_on h

/-- Settles O34: the clock that each row leaves, and what a change of its state brings. -/
theorem marksMoveTheClock : Obligations.MarksMoveTheClock := by
  refine ⟨fun elapsed phase s h => ?mark, fun s h => ⟨?rise, ?timeout⟩⟩
  case mark =>
    have marked := exec_mark elapsed phase h
    rw [changeClock_afterMark, afterMark_eq, state_afterMark, regular_eq] at marked
    exact marked
  case rise =>
    rw [exec_missingCountRise h]
    refine congrArg Host.Outcome.next ?_
    by_cases unmarked : s.clock.marked = false
    · rw [if_neg (by simp [unmarked]), if_pos unmarked]
    rw [if_pos (Bool.not_eq_false _ ▸ unmarked), if_neg unmarked]
    by_cases frees : s.clock.state = .holdover ∧ 60 ≤ min (s.clock.missing + 1) 255
    · have changes : s.clock.missed.state ≠ s.clock.state := by
        rw [missed_frees frees, frees.1]
        exact ClockState.noConfusion
      rw [if_pos frees, changeClock_changes _ changes, missed_frees frees]
    · have stands : s.clock.missed.state = s.clock.state := by rw [missed_counts frees]
      rw [if_neg frees, changeClock_stands _ stands, missed_counts frees]
  case timeout =>
    rw [exec_markTimeout h]
    by_cases locked : s.clock.state = .locked
    · have changes : ClockState.holdover ≠ s.clock.state := by
        rw [locked]
        exact ClockState.noConfusion
      rw [if_pos locked, if_pos locked, changeClock_changes _ changes]
    · rw [if_neg locked, if_neg locked]

end Sys2Proof.Proofs
end

section
/-! PROOFS. The Trip Unit's second part (O51): decisions with their record, the starts by BFI, and the mark stamp. -/

namespace Sys2Proof.Proofs

open Sys2Proof Sys2Proof.Machine Sys2Proof.Claims

/-! ### The phases of a decision (R135, R147) -/

theorem mem_phases (x : PerPhase Bool) (ph : Phase) : ph ∈ x.phases ↔ x.get ph = true := by
  obtain ⟨l1, l2, l3⟩ := x
  cases ph <;> revert l1 l2 l3 <;> decide

theorem mem_operatingOn (zone check : ZoneResult) (ph : Phase) :
    ph ∈ operatingOn zone check ↔ (zone.phases.get ph).operating = true ∧ (check.phases.get ph).operating = true := by
  rw [operatingOn, mem_phases]
  cases ph <;> exact Bool.and_eq_true_iff

theorem tripPhases_some {s : State} {st : ZoneState} {r k : ZoneResult} {c : CheckState} (zone : st.eval.last = some r)
    (check : s.check = some c) (evaluated : c.last = some k) : s.tripPhases st = operatingOn r k := by
  simp only [State.tripPhases, zone, check, Option.bind_some, evaluated]

theorem tripPhases_none {s : State} {st : ZoneState} (h : st.eval.last = none ∨ s.check = none) : s.tripPhases st = [] := by
  unfold State.tripPhases
  rcases h with h | h
  · rw [h]
  · rw [h]
    cases st.eval.last <;> rfl

/-! ### One bay's latch and timing leave the others (R139, R142) -/

theorem tripState_setLatch_other (s : State) {p r : Pos} (k : LatchKind) (q : Seq) (h : r ≠ p) :
    (s.setLatch p k q).tripState r = s.tripState r := by
  obtain ⟨rs, e⟩ := setLatch_eq s p k q
  rw [e]
  split
  · rfl
  · rw [tripState_postAll, tripState_modTrip_other _ h]

theorem zones_setLatch (s : State) (p : Pos) (k : LatchKind) (q : Seq) : (s.setLatch p k q).zones = s.zones := by
  obtain ⟨rs, e⟩ := setLatch_eq s p k q
  rw [e]
  split
  · rfl
  · rw [zones_postAll, zones_modTrip]

theorem active_setLatch (s : State) (p : Pos) (k : LatchKind) (q : Seq) : (s.setLatch p k q).active = s.active := by
  obtain ⟨rs, e⟩ := setLatch_eq s p k q
  rw [e]
  split
  · rfl
  · rw [active_postAll, active_modTrip]

/-- Work on each bay of a list that leaves the trip states of the others, all of it leaves that of a bay outside the list. -/
theorem tripState_foldl_other {f : State → Pos → State} {r : Pos} (step : ∀ s p, r ≠ p → (f s p).tripState r = s.tripState r) :
    ∀ (ps : List Pos) (s : State), r ∉ ps → (ps.foldl f s).tripState r = s.tripState r
  | [], _, _ => rfl
  | p :: ps, s, outside => by
    obtain ⟨here, there⟩ := not_or.mp (mt List.mem_cons.mpr outside)
    rw [List.foldl_cons, tripState_foldl_other step ps _ there, step s p here]

theorem tripState_setTrips_other {s : State} {ps : List Pos} {r : Pos} (q : Seq) (h : r ∉ ps) :
    (s.setTrips ps q).tripState r = s.tripState r :=
  tripState_foldl_other (fun u _ other => tripState_setLatch_other u .trip q other) ps s h

theorem zones_setTrips (s : State) (ps : List Pos) (q : Seq) : (s.setTrips ps q).zones = s.zones :=
  foldl_same (v := State.zones) (fun u p => zones_setLatch u p .trip q) ps s

theorem tripState_startAll_other {s : State} {ps : List Pos} {r : Pos} (c : StartCause) (h : r ∉ ps) :
    (s.startAll ps c).tripState r = s.tripState r :=
  tripState_foldl_other (fun _ _ other => tripState_modTrip_other _ other _) ps s h

/-- Timing touches no latch. -/
theorem trip_startAll (s : State) (ps : List Pos) (c : StartCause) (r : Pos) :
    ((s.startAll ps c).tripState r).trip = (s.tripState r).trip := by
  refine foldl_same (v := fun u : State => (u.tripState r).trip) (fun u p => ?_) ps s
  by_cases here : r = p
  · rw [here, tripState_modTrip, startTiming_trip]
  · rw [tripState_modTrip_other _ here]

theorem zones_startAll (s : State) (ps : List Pos) (c : StartCause) : (s.startAll ps c).zones = s.zones :=
  foldl_same (v := State.zones) (fun u p => zones_modTrip u p (TripState.startTiming u.active c)) ps s

theorem zones_record (s : State) (make : Nat → TripRecord) (bf : Bool) (q : Seq) (r : Option Nat → Report) :
    (s.record make bf q r).zones = s.zones := zones_postAll ..

/-! ### A decision (R135 to R137) -/

/-- The bays a decision newly latches. -/
def newlyLatched (s : State) (z : EffZone) : List Pos := s.unlatched (connectedBays s.bays z.zones)

/-- The flag raised with its targets and their trip latches set, before any record. -/
def latchedZone (s : State) (q : Seq) (z : EffZone) (st : ZoneState) : State :=
  (s.putZone { st with flag := some (connectedBays s.bays z.zones) }).setTrips (newlyLatched s z) q

/-- A decision that latches no bay makes no record. -/
theorem decideZone_silent {s : State} {z : EffZone} (q : Seq) (st : ZoneState) (h : newlyLatched s z = []) :
    s.decideZone q z st = latchedZone s q z st := if_pos (List.isEmpty_iff.mpr h)

/-- A decision that latches bays is recorded, and timing starts on them. -/
theorem decideZone_recorded {s : State} {z : EffZone} (q : Seq) (st : ZoneState) (h : newlyLatched s z ≠ []) :
    s.decideZone q z st =
      ((latchedZone s q z st).record
        (fun i =>
          { id := i, cause := .differential st.classifier.state (s.trippedPhases st), zones := z.zones, phases := s.tripPhases st
            sequence := q, stamp := s.clock.stamp q, bays := newlyLatched s z })
        false q
        (fun i =>
          { subject := .busZone z.name
            detail := .tripDecision z.name z.zones (s.tripPhases st) (newlyLatched s z) q i })).startAll
        (newlyLatched s z) .decision := if_neg (mt List.isEmpty_iff.mp h)

/-- A latch after the decision is as the latching left it. -/
theorem trip_decideZone (s : State) (q : Seq) (z : EffZone) (st : ZoneState) (p : Pos) :
    ((s.decideZone q z st).tripState p).trip = ((latchedZone s q z st).tripState p).trip := by
  by_cases h : newlyLatched s z = []
  · rw [decideZone_silent q st h]
  · rw [decideZone_recorded q st h, trip_startAll, tripState_record]

theorem zones_decideZone (s : State) (q : Seq) (z : EffZone) (st : ZoneState) :
    (s.decideZone q z st).zones =
      s.zones.map fun y => if y.name = st.name then { st with flag := some (connectedBays s.bays z.zones) } else y := by
  have latched : (latchedZone s q z st).zones =
      s.zones.map fun y => if y.name = st.name then { st with flag := some (connectedBays s.bays z.zones) } else y :=
    zones_setTrips ..
  by_cases h : newlyLatched s z = []
  · rw [decideZone_silent q st h, latched]
  · rw [decideZone_recorded q st h, zones_startAll, zones_record, latched]

/-- Every target holds its trip latch: it held it, or it is newly latched. -/
theorem set_decideZone {s : State} {z : EffZone} {p : Pos} (q : Seq) (st : ZoneState) (target : p ∈ connectedBays s.bays z.zones) :
    ((s.decideZone q z st).tripState p).trip.set = true := by
  rw [trip_decideZone, latchedZone]
  by_cases held : (s.tripState p).trip.set = true
  · exact tripSet_setTrips _ q _ p held
  · exact set_setTrips q _ _ p (List.mem_filter.mpr ⟨target, by simp [held]⟩)

theorem flag_decideZone {s : State} {q : Seq} {z : EffZone} {st y : ZoneState} (hy : y ∈ (s.decideZone q z st).zones)
    (name : y.name = st.name) : y.flag = some (connectedBays s.bays z.zones) := by
  rw [zones_decideZone] at hy
  obtain ⟨x, _, rfl⟩ := List.mem_map.mp hy
  by_cases same : x.name = st.name
  · rw [if_pos same]
  · rw [if_neg same] at name
    exact absurd name same

theorem decideZone_allSet {s : State} {z : EffZone} (q : Seq) (st : ZoneState)
    (h : ∀ p ∈ connectedBays s.bays z.zones, (s.tripState p).trip.set = true) :
    s.decideZone q z st = s.putZone { st with flag := some (connectedBays s.bays z.zones) } := by
  have nothing : newlyLatched s z = [] := List.filter_eq_nil_iff.mpr fun p hp => by simp [h p hp]
  rw [decideZone_silent q st nothing, latchedZone, nothing]
  rfl

theorem tripState_decideZone_other {s : State} {z : EffZone} {p : Pos} (q : Seq) (st : ZoneState)
    (h : p ∉ connectedBays s.bays z.zones) : (s.decideZone q z st).tripState p = s.tripState p := by
  have outside : p ∉ newlyLatched s z := mt mem_unlatched h
  have latched : (latchedZone s q z st).tripState p = s.tripState p := tripState_setTrips_other q outside
  by_cases silent : newlyLatched s z = []
  · rw [decideZone_silent q st silent, latched]
  · rw [decideZone_recorded q st silent, tripState_startAll_other _ outside, tripState_record, latched]

theorem decides_iff (s : State) (checkBlocked : Bool) (z : EffZone) (st : ZoneState) :
    s.decides checkBlocked z st = true ↔
      z.members ≠ [] ∧ s.tripPhases st ≠ [] ∧ z.blocked = false ∧ checkBlocked = false ∧ st.flag = none := by
  simp only [State.decides, EffZone.live, Bool.and_eq_true, Bool.not_eq_true', List.isEmpty_eq_false_iff, Option.isNone_iff_eq_none,
    and_assoc, ne_eq]

/-! ### Starts by BFI, and the bays TIMING (R142, R143) -/

theorem initiate_elsewhere {s : State} {p : Pos} (q : Seq) (h : ¬ ((s.bay p).service = .inService ∧ (s.tripState p).bf = .idle)) :
    s.initiate p q = s :=
  if_neg (by simpa only [Bool.and_eq_true, inService_iff, beq_iff_eq] using h)

theorem initiate_idle {s : State} {p : Pos} (q : Seq) (inUse : (s.bay p).service = .inService) (idle : (s.tripState p).bf = .idle) :
    s.initiate p q =
      if (s.tripState p).trip.set then timingStarted (s.setLatch p .trip q) p .bfi
      else (timingStarted (s.setLatch p .trip q) p .bfi).post { subject := .bay p, detail := .tripRetrip q } := by
  have starts : ((s.bay p).inService && (s.tripState p).bf == .idle) = true := by
    rw [Bool.and_eq_true, inService_iff, beq_iff_eq]
    exact ⟨inUse, idle⟩
  have timed : (s.setLatch p .trip q).modTrip p (TripState.startTiming s.active .bfi) =
      timingStarted (s.setLatch p .trip q) p .bfi := by
    rw [← active_setLatch s p .trip q]
    rfl
  rw [State.initiate, if_pos starts, timed]
  split <;> rfl

theorem advanceTiming_eq (q : Seq) (hands : Table BayHand) :
    State.advanceTiming q hands = fun u p =>
      if (u.tripState p).bf = .timing then
        u.advanceBay p q (if (hands.get p).present then some (hands.get p).currents else none)
      else u := by
  funext u p
  simp only [State.advanceTiming, TripState.timing, beq_iff_eq]
  rfl

/-! ### O51 -/

theorem stale_iff (c : Clock) (q : Seq) : (c.stamp q).stale = true ↔ c.marked = false ∨ 32767 < c.sinceMark := by
  simp [Clock.stamp]

/-- What the record holds per tripped phase, from the phases of the decision. -/
theorem trippedPhases_eq (s : State) (st : ZoneState) :
    s.trippedPhases st =
      match st.eval.last, s.check.bind CheckState.last with
      | some r, some k => (s.tripPhases st).map fun ph =>
          { phase := ph, id := (r.phases.get ph).id, ir := (r.phases.get ph).ir, checkId := (k.phases.get ph).id }
      | _, _ => [] := by
  unfold State.trippedPhases State.tripPhases
  cases st.eval.last with
  | none => rfl
  | some r => cases s.check.bind CheckState.last <;> rfl

/-- Settles O51: the second part in its order, a start by BFI, the stamp, and a decision by whether it latches a bay. -/
theorem decisionLatchesConnectedBays : Obligations.DecisionLatchesConnectedBays := by
  refine ⟨fun s q hands timing => ?part, fun s p q => ⟨initiate_elsewhere q, initiate_idle q⟩,
    fun c q => ⟨rfl, rfl, stale_iff c q⟩, fun s q z st => ?decision,
    fun s q checkBlocked z st => ⟨decides_iff s checkBlocked z st, fun r k c zone check evaluated ph => ?phases, tripPhases_none,
      fun p => set_decideZone q st, fun y => flag_decideZone, fun allSet => ?allSet, fun p => tripState_decideZone_other q st⟩⟩
  case part =>
    rw [State.tripWork, advanceTiming_eq]
    rfl
  case decision =>
    by_cases silent : newlyLatched s z = []
    · exact (decideZone_silent q st silent).trans (if_pos silent).symm
    · rw [decideZone_recorded q st silent, trippedPhases_eq]
      exact (if_neg silent).symm
  case phases => rw [tripPhases_some zone check evaluated, mem_operatingOn]
  case allSet =>
    rw [decideZone_allSet q st allSet]
    exact ⟨rfl, rfl⟩

end Sys2Proof.Proofs
end

section
/-! PROOFS. Error events (O44), OPEN_LINK (O36) and CLOSE_LINK (O37): the counters of a link, the checks, and the state that is left. -/

namespace Sys2Proof.Proofs

open Sys2Proof Sys2Proof.Machine Sys2Proof.Claims

/-! ### Error events (R76, R77) -/

/-- The one counter that an error event raises, the others standing. -/
theorem raised_eq (c : ErrorCounts) (k : ErrorKind) :
    c.raised k =
      { c with
        crc := if k = .crc then upTo16 c.crc else c.crc
        address := if k = .address then upTo16 c.address else c.address
        late := if k = .late then upTo16 c.late else c.late
        duplicate := if k = .duplicate then upTo16 c.duplicate else c.duplicate
        overrun := if k = .overrun then upTo16 c.overrun else c.overrun
        syncLoss := if k = .syncLoss then upTo16 c.syncLoss else c.syncLoss } := by
  cases k <;> rfl

theorem countError_maintenance {s : State} {p : Pos} (k : ErrorKind) (h : (s.bay p).service = .maintenance) :
    s.countError p k = s.modLink p fun l => { l with errors := { l.errors with suppressed := upTo16 l.errors.suppressed } } :=
  if_pos (beq_iff_eq.mpr h)

theorem countError_counts {s : State} {p : Pos} (k : ErrorKind) (h : (s.bay p).service ≠ .maintenance) :
    s.countError p k =
      (s.modLink p fun l => { l with errors := l.errors.raised k }).postAll (errorReports p k ((s.link p).errors.get k)) :=
  if_neg (mt beq_iff_eq.mp h)

/-- LINK_ERRORS is the one report of a rise, and only of a rise to a multiple of 64. -/
theorem postAll_errorReports (s : State) (p : Pos) (k : ErrorKind) (n : Nat) :
    s.postAll (errorReports p k n) =
      if n < 65535 ∧ (n + 1) % 64 = 0 then s.post { subject := .link p, detail := .linkErrors k (n + 1) } else s := by
  by_cases rises : n < 65535 ∧ (n + 1) % 64 = 0
  · rw [if_pos rises, errorReports, if_pos (by simpa using rises)]
    rfl
  · rw [if_neg rises, errorReports, if_neg (by simpa using rises)]
    rfl

/-- Settles O44: in MAINTENANCE the suppressed count, else the one counter and the report of its rise. -/
theorem errorsAreCountedOrSuppressed : Obligations.ErrorsAreCountedOrSuppressed := by
  intro p k s
  by_cases maintenance : (s.bay p).service = .maintenance
  · exact (countError_maintenance k maintenance).trans (if_pos maintenance).symm
  · refine Eq.trans ?_ (if_neg maintenance).symm
    rw [countError_counts k maintenance, postAll_errorReports]
    simp only [raised_eq]

/-- An error event touches one link's counters and the port. -/
theorem only_countError (s : State) (p : Pos) (k : ErrorKind) : Only p s (s.countError p k) := by
  by_cases maintenance : (s.bay p).service = .maintenance
  · rw [countError_maintenance k maintenance]
    exact only_modLink ..
  · rw [countError_counts k maintenance, postAll_errorReports]
    split
    · exact (only_modLink ..).trans (only_post ..)
    · exact only_modLink ..

theorem recovery_countError (s : State) (p : Pos) (k : ErrorKind) : ((s.countError p k).link p).recovery = (s.link p).recovery :=
  (LinkRecord.law_ext (law_countError s p k)).2.1

/-! ### Which links transmit (R65) -/

theorem transmits_iff (v : LinkState) : v.transmits = true ↔ v ≠ .down ∧ v ≠ .dormant := by
  cases v <;> decide

theorem busy_iff (l : LinkRecord) : l.busy = true ↔ l.op.state = .busy := beq_iff_eq

/-! ### OPEN_LINK (R66, R67) -/

theorem askOpenLink_outside {b e : Nat} (s : State) (h : bayOf b = none ∨ 255 < e) : askOpenLink b e s = s.answer .badValue := by
  unfold askOpenLink
  rcases h with hb | he
  · rw [hb]
  · cases bayOf b with
    | none => rfl
    | some p => exact if_neg (Nat.not_le.mpr he)

theorem askOpenLink_bay {b e : Nat} {p : Pos} (s : State) (hb : bayOf b = some p) (he : e ≤ 255) :
    askOpenLink b e s = s.openLink p e := by
  simp only [askOpenLink, hb, if_pos he]

/-- The checks of OPEN_LINK in order, then the bring-up. -/
theorem handed_openLink (s : State) (p : Pos) (e : Nat) :
    handed (s.openLink p e) =
      if (s.bay p).configured = false then answered s .notConfigured
      else if (s.link p).op.state = .busy then answered s .busy
      else if (s.link p).state ≠ .down ∧ (s.link p).state ≠ .dormant then answered s .badState
      else if (s.bay p).alloc < s.controller.station.depth + 1 then answered s .belowDepth
      else answered (s.modLink p (LinkRecord.opening e false)) .accepted := by
  simp only [State.openLink, handed_ite, handed_answer, Bool.not_eq_true', busy_iff, transmits_iff]
  rfl

/-- Settles O36: the operands, then the checks in order and the bring-up begun. -/
theorem openLinkStartsABringUp : Obligations.OpenLinkStartsABringUp := by
  refine fun b e s h => ⟨fun bad => request_answers h (askOpenLink_outside s bad), fun p hb he => ?checks⟩
  case checks =>
    refine (request_handed h).trans ?_
    rw [askOpenLink_bay s hb he, handed_openLink]
    rfl

/-! ### CLOSE_LINK (R78, R81, R90, R96) -/

theorem onDuty_iff (v : Protection) : v.onDuty = true ↔ v ≠ .halted := by
  cases v <;> decide

theorem askCloseLink_outside {b d w : Nat} (s : State) (h : bayOf b = none ∨ 1 < d ∨ 1 < w ∨ (w = 1 ∧ d = 0)) :
    askCloseLink b d w s = s.answer .badValue := by
  unfold askCloseLink
  rcases h with hb | hd | hw | ⟨rfl, rfl⟩
  · rw [hb]
  · rw [yesNo_none hd]
    cases bayOf b <;> rfl
  · rw [yesNo_none hw]
    cases bayOf b <;> cases yesNo d <;> rfl
  · cases bayOf b <;> rfl

/-- WAKE is refused without DORMANT alone. -/
theorem askCloseLink_bay {b d w : Nat} {p : Pos} (s : State) (hb : bayOf b = some p) (hd : d ≤ 1) (hw : w ≤ 1)
    (wakes : w = 1 → d = 1) : askCloseLink b d w s = s.closeRequest p (d == 1) (w == 1) := by
  have allowed : ((w == 1) && !(d == 1)) = false := by simpa using wakes
  simp only [askCloseLink, hb, yesNo_some hd, yesNo_some hw, allowed, Bool.false_eq_true, if_false]

theorem handed_closeRequest (s : State) (p : Pos) (dormant wake : Bool) :
    handed (s.closeRequest p dormant wake) =
      if (s.bay p).service = .inService ∧ s.controller.protection ≠ .halted then answered s .badState
      else if dormant = true ∧ (s.bay p).configured = false then answered s .notConfigured
      else answered (s.closeLink p dormant wake) .ok := by
  simp only [State.closeRequest, handed_ite, handed_answer, Bool.and_eq_true, Bool.not_eq_true', inService_iff, onDuty_iff]

/-- The port after a close: OP_DONE of a BUSY operation, posted once. -/
theorem joined_closedReports (s : State) (p : Pos) :
    joinedAll s.port s.clock.current (closedReports p (s.link p)) =
      if (s.link p).op.state = .busy then
        (s.post { subject := .bay p, detail := .linkOpDone (s.link p).op.kind .aborted (s.link p).op.wake }).port
      else s.port := by
  unfold closedReports
  split <;> rfl

/-- Settles O37: the operands, the checks in order, then what closing leaves of the link, of its pool and of the port. -/
theorem closeLinkEmptiesTheLink : Obligations.CloseLinkEmptiesTheLink := by
  refine fun b d w s h => ⟨fun bad => request_answers h (askCloseLink_outside s bad), fun p hb hd hw wakes => ?checks⟩
  case checks =>
    refine (request_handed h).trans ?_
    rw [askCloseLink_bay s hb hd hw wakes, handed_closeRequest, closeLink_eq, joined_closedReports]
    simp only [beq_iff_eq, closedRecord, closedPool, Table.modify]
    rfl

end Sys2Proof.Proofs
end

section
/-! PROOFS. Upstream frames (O38, O39, O41): what their bytes are read as, and what an arrival does in each link state. -/

namespace Sys2Proof.Proofs

open Sys2Proof Sys2Proof.Machine Sys2Proof.Claims

/-! ### The CRC (R180) -/

theorem crcBit_eq (c : BitVec 16) : crcBit c = if 0x8000 ≤ c.toNat then (c <<< 1) ^^^ 0x1021 else c <<< 1 := by
  simp only [crcBit, BitVec.msb_eq_decide, decide_eq_true_eq]
  rfl

/-- A byte enters the CRC at its most significant end. -/
theorem zeroExtend_shift (b : Byte) : b.zeroExtend 16 <<< 8 = BitVec.ofNat 16 (256 * b.toNat) := by
  refine BitVec.eq_of_toNat_eq ?_
  have small := b.isLt
  simp only [BitVec.truncate_eq_setWidth, BitVec.toNat_shiftLeft, BitVec.toNat_setWidth, BitVec.toNat_ofNat, Nat.shiftLeft_eq]
  omega

theorem crc16_append (bs : List Byte) (b : Byte) :
    crc16 (bs ++ [b]) =
      (List.range 8).foldl (fun (c : BitVec 16) _ => if 0x8000 ≤ c.toNat then (c <<< 1) ^^^ 0x1021 else c <<< 1)
        (crc16 bs ^^^ BitVec.ofNat 16 (256 * b.toNat)) := by
  have last : crc16 (bs ++ [b]) = crcByte (crc16 bs) b := List.foldl_append ..
  simp only [last, ← zeroExtend_shift, ← crcBit_eq]
  rfl

/-! ### The fields of an upstream frame (R63, R180) -/

theorem toNat_word16 (hi lo : Byte) : (word16 hi lo).toNat = 256 * hi.toNat + lo.toNat := by
  have small := lo.isLt
  rw [word16, BitVec.toNat_append, ← Nat.shiftLeft_add_eq_or_of_lt small, Nat.shiftLeft_eq]
  omega

theorem word16_eq (hi lo : Byte) : word16 hi lo = seqOf (256 * hi.toNat + lo.toNat) := by
  rw [← toNat_word16, seqOf, BitVec.ofNat_toNat, BitVec.setWidth_eq]

/-- A current is read in two's complement. -/
theorem current24_eq (a b c : Byte) :
    current24 a b c =
      if 65536 * a.toNat + 256 * b.toNat + c.toNat < 8388608 then
        ((65536 * a.toNat + 256 * b.toNat + c.toNat : Nat) : Int)
      else ((65536 * a.toNat + 256 * b.toNat + c.toNat : Nat) : Int) - 16777216 := by
  have joined : (a ++ b ++ c : BitVec 24).toNat = 65536 * a.toNat + 256 * b.toNat + c.toNat := by
    have high := toNat_word16 a b
    rw [word16] at high
    rw [BitVec.toNat_append, high, ← Nat.shiftLeft_add_eq_or_of_lt c.isLt, Nat.shiftLeft_eq]
    omega
  rw [current24, BitVec.toInt_eq_toNat_cond, joined]
  split <;> split <;> omega

theorem getLsbD_eq (b : Byte) (k : Nat) : b.getLsbD k = (b.toNat / 2 ^ k % 2 == 1) := by
  rw [BitVec.getLsbD, Nat.testBit_eq_decide_div_mod_eq]
  rfl

theorem pairOf_eq (b : Byte) :
    pairOf b =
      { closedIndicating := b.toNat / 2 ^ 1 % 2 == 1, openIndicating := b.toNat / 2 ^ 0 % 2 == 1 } := by
  rw [pairOf, getLsbD_eq, getLsbD_eq]

/-- A frame cut short (R61). -/
theorem classify_short {p : Pos} {bytes : List Byte} (h : bytes.length < 19) : classify p bytes = .badCrc := by
  unfold classify
  split
  · exact absurd h (by decide : ¬ 19 < 19)
  · rfl

/-- The fields of R180 that a good frame of these bytes holds. -/
def readFrame (bytes : List Byte) : StoredFrame :=
  let b (i : Nat) : Nat := (bytes.getD i 0).toNat
  let current (i : Nat) : Int :=
    let n := 65536 * b i + 256 * b (i + 1) + b (i + 2)
    if n < 8388608 then n else (n : Int) - 16777216
  let bit (i k : Nat) : Bool := b i / 2 ^ k % 2 == 1
  let pair (i : Nat) : ContactPair := { closedIndicating := bit i 1, openIndicating := bit i 0 }
  { sequence := seqOf (256 * b 1 + b 2), currents := ⟨current 3, current 6, current 9⟩
    status :=
      { isolatorA := pair 12, isolatorB := pair 13, breaker := pair 14, unitOk := bit 15 4, testMode := bit 15 3
        bfi := bit 15 2, tripSeen := bit 15 1, transferSeen := bit 15 0 }
    echo := bytes.getD 16 0 }

/-- A whole frame: the CRC first, then the address, then its fields (R61). -/
theorem classify_whole {p : Pos} {bytes : List Byte} (h : bytes.length = 19) :
    classify p bytes =
      if (crc16 (bytes.take 17)).toNat ≠ 256 * (bytes.getD 17 0).toNat + (bytes.getD 18 0).toNat then .badCrc
      else if (bytes.getD 0 0).toNat ≠ p.val + 1 then .misaddressed
      else .good (readFrame bytes) := by
  match bytes, h with
  | [b0, b1, b2, b3, b4, b5, b6, b7, b8, b9, b10, b11, b12, b13, b14, b15, b16, b17, b18], _ =>
    simp only [classify, ne_eq, ← BitVec.toNat_inj, toNat_word16]
    simp only [word16_eq, current24_eq, pairOf_eq, getLsbD_eq]
    rfl

/-! ### Arrivals (R61, R65) -/

/-- The bytes are a bad-CRC or a misaddressed frame, counted by this counter. -/
def badAs (p : Pos) (bytes : List Byte) (k : ErrorKind) : Prop :=
  (classify p bytes = .badCrc ∧ k = .crc) ∨ (classify p bytes = .misaddressed ∧ k = .address)

theorem storesNext_bad {s : State} {p : Pos} {bytes : List Byte} {k : ErrorKind} (bad : badAs p bytes k) :
    s.storesNext p bytes = false := by
  rcases bad with ⟨c, -⟩ | ⟨c, -⟩ <;> rw [State.storesNext, c]

theorem storesNext_good {s : State} {p : Pos} {bytes : List Byte} {f : StoredFrame} (good : classify p bytes = .good f) :
    s.storesNext p bytes = true ↔
      (s.link p).state = .active ∧ f.sequence = s.next ∧ s.refusedFor p f.sequence = none := by
  simp only [State.storesNext, good, Bool.and_eq_true, beq_iff_eq, Option.isNone_iff_eq_none, and_assoc]

theorem storesNext_inactive {s : State} {p : Pos} {bytes : List Byte} {f : StoredFrame} (good : classify p bytes = .good f)
    (h : (s.link p).state ≠ .active) : s.storesNext p bytes = false :=
  Bool.eq_false_iff.mpr fun stores => h ((storesNext_good good).mp stores).1

theorem arrive_bad {s : State} {p : Pos} {bytes : List Byte} {k : ErrorKind} (bad : badAs p bytes k) :
    s.arrive p bytes = if (s.link p).state.transmits then s.badFrame p k else s := by
  rcases bad with ⟨c, rfl⟩ | ⟨c, rfl⟩ <;> rw [State.arrive, c]

theorem arrive_good {s : State} {p : Pos} {bytes : List Byte} {f : StoredFrame} (good : classify p bytes = .good f) :
    s.arrive p bytes = s.goodFrame p f := by
  rw [State.arrive, good]

theorem exec_frameArrival {s : State} (p : Pos) (bytes : List Byte) (h : powered s) :
    exec (.frameArrival p bytes) s = .next (s.arrival p bytes) := event_on (work := fun s => s.arrival p bytes) h

/-- An arrival that neither stores the frame of next_release nor changes the protection state brings no release about. -/
theorem arrival_eq {s t : State} {p : Pos} {bytes : List Byte} (stores : s.storesNext p bytes = false)
    (e : s.arrive p bytes = t) (touches : Only p s t) : s.arrival p bytes = t := by
  have same : t.controller.protection = s.controller.protection := congrArg _ touches.controller
  rw [State.arrival, stores, e]
  exact if_pos same

theorem exec_bad {s t : State} {p : Pos} {bytes : List Byte} {k : ErrorKind} (h : powered s) (bad : badAs p bytes k)
    (e : (if (s.link p).state.transmits then s.badFrame p k else s) = t) (touches : Only p s t) :
    exec (.frameArrival p bytes) s = .next t := by
  rw [exec_frameArrival p bytes h, arrival_eq (storesNext_bad bad) ((arrive_bad bad).trans e) touches]

theorem exec_good {s t : State} {p : Pos} {bytes : List Byte} {f : StoredFrame} (h : powered s)
    (good : classify p bytes = .good f) (inactive : (s.link p).state ≠ .active) (e : s.goodFrame p f = t)
    (touches : Only p s t) : exec (.frameArrival p bytes) s = .next t := by
  rw [exec_frameArrival p bytes h, arrival_eq (storesNext_inactive good inactive) ((arrive_good good).trans e) touches]

/-- DOWN ignores every arrival, whatever its bytes are. -/
theorem exec_down {s : State} {p : Pos} (bytes : List Byte) (h : powered s) (down : (s.link p).state = .down) :
    exec (.frameArrival p bytes) s = .next s := by
  cases c : classify p bytes with
  | badCrc => exact exec_bad h (.inl ⟨c, rfl⟩) (by rw [down]; rfl) (.refl p s)
  | misaddressed => exact exec_bad h (.inr ⟨c, rfl⟩) (by rw [down]; rfl) (.refl p s)
  | good f => exact exec_good h c (by rw [down]; exact LinkState.noConfusion) (by rw [State.goodFrame, down]) (.refl p s)

theorem follows_iff (q : Seq) (l : LinkRecord) : l.follows q = true ↔ l.lastGood = some (q - 1) := beq_iff_eq

/-- Settles O38: the CRC bit by bit, the frame's fields byte by byte, and an arrival by its class and the link state. -/
theorem arrivalsSearchAndLock : Obligations.ArrivalsSearchAndLock := by
  refine ⟨⟨rfl, crc16_append⟩, fun p bytes => ⟨classify_short, classify_whole⟩, fun p bytes s h => ⟨exec_down bytes h,
    fun k bad => ⟨fun dormant => ?badDormant, fun counts => ?badCounted, fun returns => ?badReturns⟩,
    fun f good => ⟨fun hunt => ?hunt, fun lock follows => ?lock, fun searching breaks => ?outOfOrder⟩⟩⟩
  case badDormant => exact exec_bad h bad (by rw [dormant]; rfl) (.refl p s)
  case badCounted =>
    refine exec_bad h bad ?_ (only_countError s p k)
    rcases counts with e | e <;> simp only [State.badFrame, e] <;> rfl
  case badReturns =>
    refine exec_bad h bad ?_ ((only_countError s p k).trans (only_modLink ..))
    rcases returns with e | e <;> simp only [State.badFrame, e] <;> rfl
  case hunt =>
    refine exec_good h good (by rw [hunt]; exact LinkState.noConfusion) ?_ (only_modLink ..)
    rw [State.goodFrame, hunt]
    rfl
  case lock =>
    refine exec_good h good (by rw [lock]; exact LinkState.noConfusion) ?_ (only_modLink ..)
    simp only [State.goodFrame, lock, if_pos ((follows_iff ..).mpr follows)]
    rfl
  case outOfOrder =>
    have broken := mt (follows_iff f.sequence (s.link p)).mp breaks
    rcases searching with e | e
    all_goals
      refine exec_good h good (by rw [e]; exact LinkState.noConfusion) ?_ (only_modLink ..)
      simp only [State.goodFrame, e, if_neg broken]
      rfl

/-! ### A good frame in ACTIVE (R73, R89, R53) -/

theorem findFrame_isSome_iff (q : Seq) (fs : List StoredFrame) : (findFrame q fs).isSome = true ↔ ∃ g ∈ fs, g.sequence = q := by
  simp only [findFrame, List.find?_isSome, beq_iff_eq]

/-- The tests of R73 in order, and the counter of the first that applies. -/
theorem refusedFor_eq (s : State) (p : Pos) (q : Seq) :
    s.refusedFor p q =
      if behind q s.releaseUnit.next = true then some .late
      else if ∃ g ∈ (s.linkPool p).frames, g.sequence = q then some .duplicate
      else if ahead q (s.linkPool p).grant = true then some .overrun
      else if (s.linkPool p).stalled = true ∧ (s.bay p).alloc ≤ (s.linkPool p).frames.length then some .overrun
      else none := by
  simp only [State.refusedFor, findFrame_isSome_iff, Bool.and_eq_true, decide_eq_true_eq]
  rfl

/-- A good frame in ACTIVE has been heard, whatever becomes of it. -/
def heardActive (s : State) (p : Pos) (f : StoredFrame) : State :=
  s.modLink p fun l => { l with lastGood := some f.sequence, sinceGood := 0 }

/-- The heard frame put into the link's pool. -/
def storedActive (s : State) (p : Pos) (f : StoredFrame) : State :=
  (heardActive s p f).modPool p fun q => { q with frames := insertFrame f q.frames }

theorem exec_active_refused {s : State} {p : Pos} {bytes : List Byte} {f : StoredFrame} {k : ErrorKind} (h : powered s)
    (active : (s.link p).state = .active) (good : classify p bytes = .good f) (refused : s.refusedFor p f.sequence = some k) :
    exec (.frameArrival p bytes) s = .next ((heardActive s p f).countError p k) := by
  have stores : s.storesNext p bytes = false := Bool.eq_false_iff.mpr fun stores =>
    absurd (refused.symm.trans ((storesNext_good good).mp stores).2.2) (Option.some_ne_none k)
  have counted : s.arrive p bytes = (heardActive s p f).countError p k := by
    simp only [arrive_good good, State.goodFrame, active, State.activeFrame, refused]
    rfl
  rw [exec_frameArrival p bytes h, arrival_eq stores counted ((only_modLink ..).trans (only_countError ..))]

theorem exec_active_stored {s : State} {p : Pos} {bytes : List Byte} {f : StoredFrame} (h : powered s)
    (active : (s.link p).state = .active) (good : classify p bytes = .good f) (room : s.refusedFor p f.sequence = none) :
    exec (.frameArrival p bytes) s =
      .next (if f.sequence = s.releaseUnit.next then (storedActive s p f).settle else storedActive s p f) := by
  have stored : s.arrive p bytes = storedActive s p f := by
    simp only [arrive_good good, State.goodFrame, active, State.activeFrame, room]
    rfl
  rw [exec_frameArrival p bytes h]
  by_cases next : f.sequence = s.releaseUnit.next
  · rw [if_pos next, State.arrival, if_pos ((storesNext_good good).mpr ⟨active, next, room⟩), stored]
  · have stores : s.storesNext p bytes = false := Bool.eq_false_iff.mpr fun stores =>
      next ((storesNext_good good).mp stores).2.1
    rw [if_neg next, arrival_eq stores stored ((only_modLink ..).trans (only_modPool ..))]

theorem exec_active {s : State} {p : Pos} {bytes : List Byte} {f : StoredFrame} (h : powered s)
    (active : (s.link p).state = .active) (good : classify p bytes = .good f) :
    exec (.frameArrival p bytes) s =
      .next ((s.refusedFor p f.sequence).elim
        (if f.sequence = s.releaseUnit.next then (storedActive s p f).settle else storedActive s p f)
        fun k => (heardActive s p f).countError p k) := by
  cases tests : s.refusedFor p f.sequence with
  | some k => exact exec_active_refused h active good tests
  | none => exact exec_active_stored h active good tests

/-- Settles O39: the first test that applies names the counter, and a frame that none refuses is stored. -/
theorem activeArrivalIsStoredOrCounted : Obligations.ActiveArrivalIsStoredOrCounted := by
  intro p bytes f s h active good heard stored
  rw [exec_active h active good, refusedFor_eq]
  refine congrArg _ ?_
  split_ifs <;> rfl

/-! ### A good frame in DORMANT (R79, R80) -/

theorem exec_dormant {s t : State} {p : Pos} {bytes : List Byte} {f : StoredFrame} (h : powered s)
    (dormant : (s.link p).state = .dormant) (good : classify p bytes = .good f) (e : s.dormantFrame p f.sequence = t)
    (touches : Only p s t) : exec (.frameArrival p bytes) s = .next t := by
  refine exec_good h good (by rw [dormant]; exact LinkState.noConfusion) ?_ touches
  rw [State.goodFrame, dormant]
  exact e

/-- A row that names an outcome of an arrival, under its condition, is the whole arrival (log entry 3). -/
theorem row_arrival {c : Prop} [Decidable c] {s : State} {p : Pos} {bytes : List Byte} {o : Host.Outcome State Fault Refusal}
    (h : powered s) (row : o = .next (if c then s.arrival p bytes else s)) (hc : c) : o = exec (.frameArrival p bytes) s := by
  rw [row, if_pos hc, exec_frameArrival p bytes h]

theorem exec_wakeBringUp {s : State} (p : Pos) (bytes : List Byte) (h : powered s) :
    exec (.wakeBringUp p bytes) s = .next (if s.isWaking p bytes then s.arrival p bytes else s) := by
  simp only [exec, execWakeBringUp, event_on h]

theorem isWaking_of {s : State} {p : Pos} {bytes : List Byte} {f : StoredFrame} (dormant : (s.link p).state = .dormant)
    (good : classify p bytes = .good f) (unseen : (s.link p).activitySeen = false) (wakes : (s.link p).wakeOption = true) :
    s.isWaking p bytes = true := by
  simp only [State.isWaking, LinkRecord.wakes, good, dormant, unseen, wakes, beq_self_eq_true, Bool.not_false, Bool.and_self]

/-- Settles O41: by the activity seen, the wake option and the allocation. -/
theorem dormantActivityAndWake : Obligations.DormantActivityAndWake := by
  intro p bytes f s h dormant good activity
  refine ⟨fun seen => ?seen, fun unseen stays => ?notified, fun unseen wakes => ?woken⟩
  case seen => exact exec_dormant h dormant good (by simp only [State.dormantFrame, seen, if_true]) (.refl p s)
  case notified =>
    refine exec_dormant h dormant good ?_ ((only_modLink ..).trans (only_post ..))
    simp only [State.dormantFrame, unseen, stays, Bool.false_eq_true, if_false, Bool.not_false, if_true]
    rfl
  case woken =>
    have row := row_arrival h (exec_wakeBringUp p bytes h) (isWaking_of dormant good unseen wakes)
    refine ⟨row.symm, row.trans ?_⟩
    by_cases shallow : (s.bay p).alloc < s.controller.station.depth + 1
    · rw [if_pos shallow]
      refine exec_dormant h dormant good ?_ ((only_modLink ..).trans (only_post ..))
      simp only [State.dormantFrame, unseen, wakes, Bool.false_eq_true, if_false, Bool.not_true]
      exact if_pos shallow
    · rw [if_neg shallow]
      refine exec_dormant h dormant good ?_ ((only_modLink ..).trans (only_post ..))
      simp only [State.dormantFrame, unseen, wakes, Bool.false_eq_true, if_false, Bool.not_true]
      exact if_neg shallow

end Sys2Proof.Proofs
end

section
/-! PROOFS. Measurement (O40): the verdicts on a measured frame, the ends of a bring-up and of a recovery, and the rows that name them. -/

namespace Sys2Proof.Proofs

open Sys2Proof Sys2Proof.Machine Sys2Proof.Claims

/-! ### The verdict (R70) -/

theorem verdict_overrun {s : State} {p : Pos} {q : Seq} (beyond : ahead q (s.linkPool p).grant = true) :
    s.verdict p q = .overrun := if_pos beyond

theorem verdict_late {s : State} {p : Pos} {q : Seq} (within : ahead q (s.linkPool p).grant = false)
    (late : (s.controller.station.depth : Int) - 1 < (s.clock.current - q).toInt) : s.verdict p q = .late := by
  rw [State.verdict, within]
  exact if_pos late

theorem verdict_inTime {s : State} {p : Pos} {q : Seq} (within : ahead q (s.linkPool p).grant = false)
    (inTime : (s.clock.current - q).toInt ≤ (s.controller.station.depth : Int) - 1) :
    s.verdict p q = if 32 ≤ (s.link p).good + 1 then .succeeds else .goesOn := by
  rw [State.verdict, within]
  exact if_neg (Int.not_lt.mpr inTime)

/-! ### A measured frame (R70) -/

/-- The link has heard and measured the frame, before its verdict. -/
def measuredLink (s : State) (p : Pos) (q : Seq) : State := s.modLink p (LinkRecord.measured q (s.lag q))

theorem measured_eq (q : Seq) (lag : Int) (l : LinkRecord) :
    l.measured q lag =
      { l with
        lastGood := some q, sinceGood := 0, good := l.good + 1
        lagMin := some (match l.lagMin with | none => lag | some x => min x lag)
        lagMax := some (match l.lagMax with | none => lag | some x => max x lag) } := by
  unfold LinkRecord.measured
  cases l.lagMin <;> cases l.lagMax <;> rfl

theorem recovery_measuredLink (s : State) (p : Pos) (q : Seq) : ((measuredLink s p q).link p).recovery = (s.link p).recovery := by
  rw [measuredLink, link_modLink]
  rfl

theorem op_measuredLink (s : State) (p : Pos) (q : Seq) : ((measuredLink s p q).link p).op = (s.link p).op := by
  rw [measuredLink, link_modLink]
  rfl

theorem goodFrame_measured {s : State} {p : Pos} {bytes : List Byte} {f : StoredFrame} (m : measuredFrame s p bytes f) :
    s.goodFrame p f = s.measure p f.sequence := by
  obtain ⟨-, measuring, follows⟩ := m
  simp only [State.goodFrame, measuring, if_pos ((follows_iff ..).mpr follows)]

theorem exec_measured {s t : State} {p : Pos} {bytes : List Byte} {f : StoredFrame} (h : powered s)
    (m : measuredFrame s p bytes f) (e : s.measure p f.sequence = t) (touches : Only p s t) :
    exec (.frameArrival p bytes) s = .next t :=
  exec_good h m.1 (by rw [m.2.1]; exact LinkState.noConfusion) ((goodFrame_measured m).trans e) touches

theorem isMeasured_of {s : State} {p : Pos} {bytes : List Byte} {f : StoredFrame} {v : Verdict} {test : Verdict → Bool}
    (m : measuredFrame s p bytes f) (verdict : s.verdict p f.sequence = v) (ht : test v = true) :
    s.isMeasured p bytes test = true := by
  obtain ⟨good, measuring, follows⟩ := m
  simp only [State.isMeasured, good, measuring, (follows_iff ..).mpr follows, verdict, ht, beq_self_eq_true, Bool.and_self]

/-! ### The rows (log entry 3) -/

theorem exec_linkActive {s : State} (p : Pos) (bytes : List Byte) (h : powered s) :
    exec (.linkActive p bytes) s =
      .next (if s.isMeasured p bytes (· == .succeeds) && !(s.link p).recovery then s.arrival p bytes else s) := by
  simp only [exec, execLinkActive, event_on h]

theorem exec_recoveryActive {s : State} (p : Pos) (bytes : List Byte) (h : powered s) :
    exec (.recoveryActive p bytes) s =
      .next (if s.isMeasured p bytes (· == .succeeds) && (s.link p).recovery then s.arrival p bytes else s) := by
  simp only [exec, execRecoveryActive, event_on h]

theorem exec_bringUpFailed {s : State} (p : Pos) (bytes : List Byte) (h : powered s) :
    exec (.bringUpFailed p bytes) s =
      .next (if s.isMeasured p bytes (fun v => v == .overrun || v == .late) && !(s.link p).recovery then s.arrival p bytes
        else s) := by
  simp only [exec, execBringUpFailed, event_on h]

theorem row_arrival_or {c : Prop} [Decidable c] {s : State} {p : Pos} {bytes : List Byte} {o : Host.Outcome State Fault Refusal}
    (h : powered s) (row : o = .next (if c then s.arrival p bytes else s)) :
    o = .next s ∨ o = exec (.frameArrival p bytes) s := by
  by_cases hc : c
  · exact .inr (row_arrival h row hc)
  · exact .inl (row.trans (congrArg _ (if_neg hc)))

/-! ### A measurement that fails (R70, R72, R75) -/

/-- The frame's verdict is a failure, counted by k; a bring-up then ends with r. -/
def failsAs (s : State) (p : Pos) (q : Seq) (k : ErrorKind) (r : LinkResult) : Prop :=
  (s.verdict p q = .overrun ∧ k = .overrun ∧ r = .overrun) ∨ (s.verdict p q = .late ∧ k = .late ∧ r = .lateLink)

theorem measure_fails {s : State} {p : Pos} {q : Seq} {k : ErrorKind} {r : LinkResult} (fails : failsAs s p q k r) :
    s.measure p q = ((measuredLink s p q).countError p k).failMeasure p r := by
  rcases fails with ⟨v, rfl, rfl⟩ | ⟨v, rfl, rfl⟩ <;> rw [State.measure, v] <;> rfl

theorem recovery_counted (s : State) (p : Pos) (q : Seq) (k : ErrorKind) :
    (((measuredLink s p q).countError p k).link p).recovery = (s.link p).recovery :=
  (recovery_countError ..).trans (recovery_measuredLink ..)

theorem only_counted (s : State) (p : Pos) (q : Seq) (k : ErrorKind) : Only p s ((measuredLink s p q).countError p k) :=
  (only_modLink ..).trans (only_countError ..)

theorem bringUpFailed_fails {s : State} {p : Pos} {bytes : List Byte} {f : StoredFrame} {k : ErrorKind} {r : LinkResult}
    (h : powered s) (m : measuredFrame s p bytes f) (fails : failsAs s p f.sequence k r) (bringUp : (s.link p).recovery = false) :
    exec (.bringUpFailed p bytes) s = .next (((measuredLink s p f.sequence).countError p k).failBringUp p r) := by
  have measured : s.isMeasured p bytes (fun v => v == .overrun || v == .late) = true := by
    rcases fails with ⟨v, -⟩ | ⟨v, -⟩ <;> exact isMeasured_of m v rfl
  have taken : (s.isMeasured p bytes (fun v => v == .overrun || v == .late) && !(s.link p).recovery) = true := by
    rw [measured, bringUp]; rfl
  refine (row_arrival h (exec_bringUpFailed p bytes h) taken).trans (exec_measured h m ((measure_fails fails).trans ?_)
      ((only_counted ..).trans ((only_modLink ..).trans (only_endLinkOp ..))))
  rw [State.failMeasure, recovery_counted, bringUp]
  rfl

theorem exec_recovery_fails {s : State} {p : Pos} {bytes : List Byte} {f : StoredFrame} {k : ErrorKind} {r : LinkResult}
    (h : powered s) (m : measuredFrame s p bytes f) (fails : failsAs s p f.sequence k r) (recovers : (s.link p).recovery = true) :
    exec (.frameArrival p bytes) s = .next (((measuredLink s p f.sequence).countError p k).modLink p LinkRecord.toHunt) := by
  refine exec_measured h m ((measure_fails fails).trans ?_) ((only_counted ..).trans (only_modLink ..))
  rw [State.failMeasure, recovery_counted, recovers]
  rfl

/-! ### A measurement that succeeds (R71, R75, R167) -/

/-- The link in ACTIVE, and its LINK_ACTIVE posted with this wake mark. -/
def reportedActive (s : State) (p : Pos) (q : Seq) (wake : Option Bool) : State :=
  let m := measuredLink s p q
  (m.modLink p LinkRecord.activated).post
    { subject := .link p, detail := .linkActive (s.link p).recovery (m.link p).lagMin (m.link p).lagMax wake }

/-- The test of the start condition, with the releases that a success makes due (R53, R167; log entry 11). -/
def startTested (t : State) : State :=
  if t.controller.protection = .starting ∧ t.startCondition = true then t.succeedStart.settle else t

theorem settleAfter_only {s t : State} {p : Pos} (touches : Only p s t) : State.settleAfter s t.testStart = startTested t := by
  rw [settleAfter_testStart (congrArg _ touches.controller), startTested]
  simp only [State.startHolds, Bool.and_eq_true, beq_iff_eq]

theorem activate_measured (s : State) (p : Pos) (q : Seq) :
    (measuredLink s p q).activate p =
      (if (s.link p).recovery = true then reportedActive s p q none
       else (reportedActive s p q (some (s.link p).op.wake)).endLinkOp p .ok).testStart := by
  rw [State.activate, LinkRecord.activeReport, recovery_measuredLink, op_measuredLink]
  split <;> rfl

theorem exec_succeeds {s t : State} {p : Pos} {bytes : List Byte} {f : StoredFrame} (h : powered s)
    (m : measuredFrame s p bytes f) (verdict : s.verdict p f.sequence = .succeeds)
    (e : (measuredLink s p f.sequence).activate p = t.testStart) (touches : Only p s t) :
    exec (.frameArrival p bytes) s = .next (startTested t) := by
  have stores : s.storesNext p bytes = false := storesNext_inactive m.1 (by rw [m.2.1]; exact LinkState.noConfusion)
  have measured : s.measure p f.sequence = t.testStart := by rw [State.measure, verdict, ← e]; rfl
  rw [exec_frameArrival p bytes h, State.arrival, stores, arrive_good m.1, goodFrame_measured m, measured,
    ← settleAfter_only touches]
  rfl

theorem only_reportedActive (s : State) (p : Pos) (q : Seq) (wake : Option Bool) : Only p s (reportedActive s p q wake) :=
  (only_modLink ..).trans ((only_modLink ..).trans (only_post ..))

theorem linkActive_succeeds {s : State} {p : Pos} {bytes : List Byte} {f : StoredFrame} (h : powered s)
    (m : measuredFrame s p bytes f) (verdict : s.verdict p f.sequence = .succeeds) (bringUp : (s.link p).recovery = false) :
    exec (.linkActive p bytes) s =
      .next (startTested ((reportedActive s p f.sequence (some (s.link p).op.wake)).endLinkOp p .ok)) := by
  have taken : (s.isMeasured p bytes (· == .succeeds) && !(s.link p).recovery) = true := by
    rw [isMeasured_of m verdict rfl, bringUp]; rfl
  refine (row_arrival h (exec_linkActive p bytes h) taken).trans
    (exec_succeeds h m verdict ?_ ((only_reportedActive ..).trans (only_endLinkOp ..)))
  rw [activate_measured, bringUp]
  rfl

theorem recoveryActive_succeeds {s : State} {p : Pos} {bytes : List Byte} {f : StoredFrame} (h : powered s)
    (m : measuredFrame s p bytes f) (verdict : s.verdict p f.sequence = .succeeds) (recovers : (s.link p).recovery = true) :
    exec (.recoveryActive p bytes) s = .next (startTested (reportedActive s p f.sequence none)) := by
  have taken : (s.isMeasured p bytes (· == .succeeds) && (s.link p).recovery) = true := by
    rw [isMeasured_of m verdict rfl, recovers]; rfl
  refine (row_arrival h (exec_recoveryActive p bytes h) taken).trans
    (exec_succeeds h m verdict ?_ (only_reportedActive ..))
  rw [activate_measured, if_pos recovers]

/-- Settles O40: by the verdict, and by whether the measurement is of a bring-up or of a recovery. -/
theorem measurementEnds : Obligations.MeasurementEnds := by
  intro p bytes f s h measured lag m
  have hm : m = measuredLink s p f.sequence := congrArg (s.modLink p) (funext fun l => (measured_eq f.sequence lag l).symm)
  clear_value m
  subst hm
  refine ⟨fun beyond bringUp => ?overrun, fun within late bringUp => ?late, fun beyond recovers => ?recoveryOverrun,
    fun within late recovers => ?recoveryLate, fun within inTime => ⟨fun early => ?goesOn, fun enough bringUp => ?active,
    fun enough recovers => ?recovered⟩, row_arrival_or h (exec_linkActive p bytes h),
    row_arrival_or h (exec_recoveryActive p bytes h), row_arrival_or h (exec_bringUpFailed p bytes h)⟩
  case overrun => exact bringUpFailed_fails h measured (.inl ⟨verdict_overrun beyond, rfl, rfl⟩) bringUp
  case late => exact bringUpFailed_fails h measured (.inr ⟨verdict_late within late, rfl, rfl⟩) bringUp
  case recoveryOverrun => exact exec_recovery_fails h measured (.inl ⟨verdict_overrun beyond, rfl, rfl⟩) recovers
  case recoveryLate => exact exec_recovery_fails h measured (.inr ⟨verdict_late within late, rfl, rfl⟩) recovers
  case goesOn =>
    have verdict : s.verdict p f.sequence = .goesOn := (verdict_inTime within inTime).trans (if_neg (Nat.not_le.mpr early))
    exact exec_measured h measured (by rw [State.measure, verdict]; rfl) (only_modLink ..)
  case active => exact linkActive_succeeds h measured ((verdict_inTime within inTime).trans (if_pos enough)) bringUp
  case recovered => exact recoveryActive_succeeds h measured ((verdict_inTime within inTime).trans (if_pos enough)) recovers

end Sys2Proof.Proofs
end

section
/-! PROOFS. The ends that a sample boundary brings about (O42), and the downstream frames it sends (O43). -/

namespace Sys2Proof.Proofs

open Sys2Proof Sys2Proof.Machine Sys2Proof.Claims

/-! ### BRING_UP_TIMEOUT, LOCK_TIMEOUT, LINK_LOST (R67, R69, R72, R74) -/

theorem bringingUp_iff (v : LinkState) : v.bringingUp = true ↔ v = .hunt ∨ v = .lock ∨ v = .measure := by
  cases v <;> decide

/-- Changes that do the same to the link record at hand are one change. -/
theorem modLink_congr {s : State} {p : Pos} {f g : LinkRecord → LinkRecord} (h : f (s.link p) = g (s.link p)) :
    s.modLink p f = s.modLink p g :=
  congrArg (fun t => { s with links := t }) (modify_congr s.links p h)

/-- The sixteenth SP without a good frame is the next one. -/
theorem goesSilent_of {l : LinkRecord} (h : l.sinceGood = 15) : l.goesSilent = true := by
  rw [goesSilent_iff, h]
  decide

theorem age_of {l : LinkRecord} (h : l.sinceGood = 15) : l.age = { l with sinceGood := 16 } := by
  rw [LinkRecord.age, h]
  rfl

theorem exec_bringUpTimeout {s : State} (p : Pos) (h : powered s) :
    exec (.bringUpTimeout p) s = .next (if (s.link p).runsOut then s.failBringUp p .timeout else s) := by
  simp only [exec, execBringUpTimeout, event_on h]

theorem exec_lockTimeout {s : State} (p : Pos) (h : powered s) :
    exec (.lockTimeout p) s =
      .next (if ((s.link p).state == .lock || (s.link p).state == .measure) && (s.link p).goesSilent then s.timeLock p
        else s) := by
  simp only [exec, execLockTimeout, event_on h]

theorem exec_linkLost {s : State} (p : Pos) (h : powered s) :
    exec (.linkLost p) s = .next (if (s.link p).state == .active && (s.link p).goesSilent then s.loseSync p else s) := by
  simp only [exec, execLinkLost, event_on h]

/-- Settles O42: each row by its condition, then the count of the sixteenth SP. -/
theorem linkTimersRunOut : Obligations.LinkTimersRunOut := by
  refine fun p s h => ⟨fun bringing last => ?timeout, fun searching silent => ?lock, fun active silent => ?lost⟩
  case timeout =>
    have runsOut : (s.link p).runsOut = true := by
      rw [LinkRecord.runsOut, (bringingUp_iff _).mpr bringing, last]
      rfl
    rw [exec_bringUpTimeout p h, if_pos runsOut]
    rfl
  case lock =>
    have returns : (((s.link p).state == .lock || (s.link p).state == .measure) && (s.link p).goesSilent) = true := by
      simpa only [goesSilent_of silent, Bool.and_true, Bool.or_eq_true, beq_iff_eq] using searching
    have aged : (s.link p).age.toHunt = { s.link p with sinceGood := 16, state := .hunt, good := 0, lastGood := none } := by
      rw [age_of silent]
      rfl
    rw [exec_lockTimeout p h, if_pos returns]
    exact congrArg _ (modLink_congr aged)
  case lost =>
    have loses : ((s.link p).state == .active && (s.link p).goesSilent) = true := by
      rw [active, goesSilent_of silent]
      rfl
    have aged : s.modLink p LinkRecord.age = s.modLink p fun l => { l with sinceGood := 16 } := modLink_congr (age_of silent)
    rw [exec_linkLost p h, if_pos loses, State.loseSync, aged]
    rfl

/-! ### Downstream frames (R62, R180) -/

theorem transmits_iff_states (v : LinkState) : v.transmits = true ↔ v = .hunt ∨ v = .lock ∨ v = .measure ∨ v = .active := by
  cases v <;> decide

theorem link_sendFrames (s : State) (p : Pos) :
    s.sendFrames.link p = { s.link p with lane := if (s.link p).state.transmits then some (s.downFrame p) else none } :=
  Table.get_build _ p

/-- The ten bytes that the CRC covers: an order's kind by its number, its tag and its argument, and zeroes for none (R180). -/
theorem content_eq (f : DownFrame) :
    f.content =
      byte1 f.address ++ byte2 f.sequence.toNat ++ byte2 f.grant.toNat ++
        byte1 ((if f.trip then 2 else 0) + (if f.transferTrip then 1 else 0)) ++
        (match f.order with
         | none => byte1 0 ++ byte1 0 ++ byte2 0
         | some o =>
           byte1 (match o.kind with | .testTrip => 1 | .ping => 2 | .enterTest => 3 | .leaveTest => 4 | .resetUnit => 5) ++
             byte1 o.tag ++ byte2 o.argument) := by
  unfold DownFrame.content
  cases f.order with
  | none => rfl
  | some o => cases hk : o.kind <;> simp only [Option.map_some, hk, orderNumber, Option.getD_some, List.append_assoc]

/-- Settles O43: each lane by whether its link transmits, and the bytes by their content. -/
theorem downstreamFrameFields : Obligations.DownstreamFrameFields := by
  refine ⟨fun s p => ?lane, fun f => ?bytes⟩
  case lane =>
    rw [link_sendFrames]
    simp only [transmits_iff_states]
    rfl
  case bytes => exact congrArg (fun c => byte2 0x4E2B ++ c ++ byte2 (crc16 c).toNat) (content_eq f)

end Sys2Proof.Proofs
end

section
/-! PROOFS. The Frame Pool: REALLOCATE (O45) and DRAIN_COMPLETE (O46). -/

namespace Sys2Proof.Proofs

open Sys2Proof Sys2Proof.Machine Sys2Proof.Claims

/-! ### The budget (R87) -/

theorem budgetUsed_eq (bays : Table BayRecord) : budgetUsed bays = allocations bays allPos := by
  rw [budgetUsed_sum, cells_allPos, List.map_map]
  exact sum_where (fun p => (bays.get p).configured) (fun p => (bays.get p).alloc) allPos

theorem freeBudget_eq (bays : Table BayRecord) : freeBudget bays = 512 - allocations bays allPos :=
  congrArg (512 - ·) (budgetUsed_eq bays)

/-! ### REALLOCATE (R91 to R94) -/

/-- The links whose shrink is applied at once (R93). -/
theorem silent_iff (v : LinkState) : v.transmits = false ↔ v = .down ∨ v = .dormant := by
  cases v <;> decide

theorem askReallocate_outside {b a : Nat} (s : State) (hb : bayOf b = none) :
    askReallocate b a s = s.answer .badValue (.poolOfNoBay b (freeBudget s.bays)) := by
  simp only [askReallocate, hb]

theorem askReallocate_bay {b a : Nat} {p : Pos} (s : State) (hb : bayOf b = some p) :
    askReallocate b a s = if 64 < a then s.answerPool p .badValue else s.reallocate p a := by
  simp only [askReallocate, hb]

theorem handed_answerPool (s : State) (p : Pos) (c : ResultCode) :
    handed (s.answerPool p c) = answered s c (s.poolFields p) := rfl

/-- The checks of REALLOCATE in order, then the allocation applied at once or the shrink begun. -/
theorem handed_reallocate (s : State) (p : Pos) (a : Nat) :
    handed (s.reallocate p a) =
      let reply (t : State) (c : ResultCode) : State := answered t c (t.poolFields p)
      if (s.bay p).configured = false then reply s .notConfigured
      else if (s.link p).op.state = .busy then reply s .busy
      else if a < s.controller.station.depth + 1 then reply s .belowDepth
      else if a = (s.bay p).alloc then reply s .ok
      else if (s.bay p).alloc < a then
        (if freeBudget s.bays + (s.bay p).alloc < a then reply s .noPool else reply (s.applyAlloc p a) .ok)
      else if (s.link p).state = .down ∨ (s.link p).state = .dormant then reply (s.applyAlloc p a) .ok
      else if a < (s.linkPool p).frames.length then reply s .badState
      else reply (s.beginShrink p a) .accepted := by
  simp only [State.reallocate, handed_ite, handed_answerPool, Bool.not_eq_true', busy_iff, silent_iff]
  rfl

/-- Settles O45: the free budget, the operands, then the checks in order and what each change leaves. -/
theorem reallocateChecksAndApplies : Obligations.ReallocateChecksAndApplies := by
  refine ⟨freeBudget_eq, fun b a s h => ⟨fun hb => request_answers h (askReallocate_outside s hb), fun p hb => ?checks⟩⟩
  case checks =>
    refine (request_handed h).trans ?_
    rw [askReallocate_bay s hb, handed_ite, handed_answerPool, handed_reallocate]
    rfl

/-! ### DRAIN_COMPLETE (R95) -/

theorem exec_drainComplete {s : State} (p : Pos) (h : powered s) : exec (.drainComplete p) s = .next (s.drainCheck p) :=
  event_on (work := fun s => s.drainCheck p) h

/-- The drain's condition, with the held span written out (log entry 16). -/
theorem drained_iff (s : State) (p : Pos) :
    s.drained p = true ↔
      (s.linkPool p).stalled = true ∧ ((s.linkPool p).grant - s.releaseUnit.next).toInt + 1 ≤ (s.bay p).alloc := by
  rw [State.drained, Bool.and_eq_true, decide_eq_true_iff]
  rfl

/-- Settles O46: a drained link has its allocation applied, another is left alone. -/
theorem drainEndsAtTheNewAllocation : Obligations.DrainEndsAtTheNewAllocation := by
  refine fun p s h => ⟨fun stalled below => ?applied, fun other => ?leaves⟩
  case applied =>
    have drained : s.drained p = true := (drained_iff s p).mpr ⟨stalled, below⟩
    rw [exec_drainComplete p h, State.drainCheck, if_pos drained]
    rfl
  case leaves =>
    have undrained : ¬ s.drained p = true := by
      rw [drained_iff]
      rintro ⟨stalled, below⟩
      rcases other with moving | above
      · rw [moving] at stalled
        cases stalled
      · exact absurd below (Int.not_le.mpr above)
    rw [exec_drainComplete p h, State.drainCheck, if_neg undrained]

end Sys2Proof.Proofs
end

section
/-! PROOFS. The Differential Evaluator (O47): the sums and tests of a phase, windows and histories, the evaluation of a zone and of the check
zone with what each hands on, and the Evaluator's turn. -/

namespace Sys2Proof.Proofs

open Sys2Proof Sys2Proof.Machine Sys2Proof.Claims

/-! ### Completeness and the two sums (R101, R102) -/

theorem complete_iff (hands : Table BayHand) (ms : List Member) :
    complete hands ms = true ↔ ∀ m ∈ ms, (hands.get m.bay).present = true := List.all_eq_true

theorem idOf_eq (hands : Table BayHand) (ms : List Member) (ph : Phase) :
    idOf hands ms ph = min ((presentMembers hands ms).map (contribution hands ph)).sum.natAbs 2147483647 := by
  rw [idOf, ← List.sum_eq_foldl]
  rfl

theorem irOf_eq (hands : Table BayHand) (ms : List Member) (ph : Phase) :
    irOf hands ms ph = min ((presentMembers hands ms).map fun m => ((hands.get m.bay).currents.get ph).natAbs).sum 2147483647 := by
  rw [irOf, ← List.sum_eq_foldl]
  rfl

/-- A sign does not change a member's share of the restraint. -/
theorem natAbs_contribution (hands : Table BayHand) (ph : Phase) (m : Member) :
    (contribution hands ph m).natAbs = ((hands.get m.bay).currents.get ph).natAbs := by
  cases h : m.minus <;> simp [contribution, h]

/-- Id is at most Ir by the triangle inequality, which the common limit keeps. -/
theorem idOf_le_irOf (hands : Table BayHand) (ms : List Member) (ph : Phase) : idOf hands ms ph ≤ irOf hands ms ph := by
  have triangle := List.le_sum_of_subadditive Int.natAbs Int.natAbs_zero.le Int.natAbs_add_le
    ((presentMembers hands ms).map (contribution hands ph))
  simp only [List.map_map, Function.comp_def, natAbs_contribution] at triangle
  rw [idOf_eq, irOf_eq]
  exact min_le_min_right _ triangle

/-! ### The tests of a phase (R103, R108) -/

theorem meets_iff (minimum slope id ir : Nat) : meets minimum slope id ir = true ↔ minimum ≤ id ∧ slope * ir ≤ id * 64 := by
  rw [meets, Bool.and_eq_true, decide_eq_true_iff, decide_eq_true_iff]

/-- What the operate mark, the normal test and the check mark have in common, for a minimum and a slope of their own. -/
theorem complete_and_meets_iff (hands : Table BayHand) (ms : List Member) (ph : Phase) (minimum slope : Nat) :
    (complete hands ms && meets minimum slope (idOf hands ms ph) (irOf hands ms ph)) = true ↔
      (∀ m ∈ ms, (hands.get m.bay).present = true) ∧ minimum ≤ idOf hands ms ph ∧
      slope * irOf hands ms ph ≤ idOf hands ms ph * 64 := by
  rw [Bool.and_eq_true, complete_iff, meets_iff]

theorem operateMark_iff (g : Settings) (c : Classifier) (hands : Table BayHand) (ms : List Member) (ph : Phase) :
    operateMark g c hands ms ph = true ↔
      (∀ m ∈ ms, (hands.get m.bay).present = true) ∧ g.idmin ≤ idOf hands ms ph ∧
      (if c = .external then g.slopeX else g.slope) * irOf hands ms ph ≤ idOf hands ms ph * 64 :=
  complete_and_meets_iff hands ms ph g.idmin (slopeInForce g c)

theorem normalTest_iff (g : Settings) (hands : Table BayHand) (ms : List Member) (ph : Phase) :
    normalTest g hands ms ph = true ↔
      (∀ m ∈ ms, (hands.get m.bay).present = true) ∧ g.idmin ≤ idOf hands ms ph ∧
      g.slope * irOf hands ms ph ≤ idOf hands ms ph * 64 :=
  complete_and_meets_iff hands ms ph g.idmin g.slope

theorem checkMark_iff (g : Settings) (hands : Table BayHand) (ms : List Member) (ph : Phase) :
    checkMark g hands ms ph = true ↔
      (∀ m ∈ ms, (hands.get m.bay).present = true) ∧ g.czIdmin ≤ idOf hands ms ph ∧
      g.czSlope * irOf hands ms ph ≤ idOf hands ms ph * 64 :=
  complete_and_meets_iff hands ms ph g.czIdmin g.czSlope

/-! ### Windows and histories (R105, R107) -/

/-- A value appended to a list of at most n, the head going when there is no room: what a window and a history have in common. -/
def pushBounded {α : Type} (n : Nat) (a : α) (l : List α) : List α := if n < (l ++ [a]).length then (l ++ [a]).tail else l ++ [a]

theorem pushMark_eq (w : Nat) (m : Bool) (win : List Bool) : pushMark w m win = pushBounded w m win := rfl

theorem pushIr_eq (ir : Nat) (h : List Nat) : pushIr ir h = pushBounded 4 ir h := rfl

section Bounded

variable {α : Type} {n : Nat} {a : α} {l : List α}

theorem pushBounded_short (room : l.length < n) : pushBounded n a l = l ++ [a] := by
  apply if_neg
  rw [List.length_append, List.length_singleton]
  omega

theorem pushBounded_full (full : l.length = n) : pushBounded n a l = (l ++ [a]).tail := by
  apply if_pos
  rw [List.length_append, List.length_singleton]
  omega

theorem length_pushBounded_le (le : l.length ≤ n) : (pushBounded n a l).length ≤ n := by
  rcases le.lt_or_eq with room | full
  · rw [pushBounded_short room, List.length_append]
    exact room
  · rw [pushBounded_full full, List.length_tail, List.length_append]
    exact full.le

end Bounded

/-! ### The evaluation of a live effective zone (R102 to R107, R110) -/

section Zone

variable (g : Settings) (hands : Table BayHand) (z : EffZone) (st : ZoneState)

theorem windows_evaluateZone (ph : Phase) :
    (evaluateZone g hands z st).1.eval.windows.get ph =
      pushMark g.w (operateMark g st.classifier.state hands z.members ph) (st.eval.windows.get ph) :=
  getPhase_perPhase ..

theorem phases_evaluateZone (ph : Phase) :
    (evaluateZone g hands z st).2.result.phases.get ph =
      phaseLast (operateThreshold g st.classifier.state) (idOf hands z.members ph) (irOf hands z.members ph)
        (normalTest g hands z.members ph) (operateMark g st.classifier.state hands z.members ph)
        ((evaluateZone g hands z st).1.eval.windows.get ph) :=
  getPhase_perPhase ..

theorem history_evaluateZone :
    (evaluateZone g hands z st).1.eval.history =
      if complete hands z.members then perPhase fun ph => pushIr (irOf hands z.members ph) (st.eval.history.get ph)
      else st.eval.history := rfl

theorem historyLength_evaluateZone :
    (evaluateZone g hands z st).2.historyLength =
      if complete hands z.members then st.eval.history.map fun h => some h.length else ⟨none, none, none⟩ := rfl

theorem reference_evaluateZone :
    (evaluateZone g hands z st).2.reference =
      if complete hands z.members then st.eval.history.map referenceOf else ⟨none, none, none⟩ := rfl

variable {g hands z st}

theorem history_evaluateZone_complete (whole : complete hands z.members = true) (ph : Phase) :
    (evaluateZone g hands z st).1.eval.history.get ph = pushIr (irOf hands z.members ph) (st.eval.history.get ph) := by
  rw [history_evaluateZone, if_pos whole, getPhase_perPhase]

theorem references_evaluateZone_complete (whole : complete hands z.members = true) (ph : Phase) :
    (evaluateZone g hands z st).2.historyLength.get ph = some (st.eval.history.get ph).length ∧
      (evaluateZone g hands z st).2.reference.get ph = referenceOf (st.eval.history.get ph) := by
  rw [historyLength_evaluateZone, reference_evaluateZone, if_pos whole, if_pos whole, getPhase_map, getPhase_map]
  exact ⟨rfl, rfl⟩

theorem references_evaluateZone_incomplete (part : ¬ complete hands z.members = true) (ph : Phase) :
    (evaluateZone g hands z st).2.historyLength.get ph = none ∧ (evaluateZone g hands z st).2.reference.get ph = none := by
  rw [historyLength_evaluateZone, reference_evaluateZone, if_neg part, if_neg part]
  cases ph <;> exact ⟨rfl, rfl⟩

end Zone

/-! ### The evaluation of the check zone (R108 to R110) -/

section Check

variable (g : Settings) (hands : Table BayHand) (z : CheckZone) (st : CheckState)

theorem complete_checkMembersOf :
    complete hands (checkMembersOf z) = true ↔ ∀ p ∈ z.members, (hands.get p).present = true := by
  rw [complete_iff, checkMembersOf, List.forall_mem_map]

theorem windows_evaluateCheck (ph : Phase) :
    (evaluateCheck g hands z st).1.windows.get ph =
      pushMark g.w (checkMark g hands (checkMembersOf z) ph) (st.windows.get ph) :=
  getPhase_perPhase ..

theorem phases_evaluateCheck (ph : Phase) :
    (evaluateCheck g hands z st).2.result.phases.get ph =
      phaseLast g.czM (idOf hands (checkMembersOf z) ph) (irOf hands (checkMembersOf z) ph) false
        (checkMark g hands (checkMembersOf z) ph) ((evaluateCheck g hands z st).1.windows.get ph) :=
  getPhase_perPhase ..

end Check

/-! ### The Evaluator's turn (R100) -/

theorem evaluatedCheck_eq (s : State) (pic : Picture) (hands : Table BayHand) :
    s.evaluatedCheck pic hands =
      if pic.check.members = [] then none else some (evaluateCheck s.active hands pic.check (s.check.getD .fresh)) := by
  simp only [State.evaluatedCheck, List.isEmpty_iff]

/-- Settles O47: a zone, the check zone and the turn, then the sums and tests of a phase, windows and histories. -/
theorem sumsMarksAndWindows : Obligations.SumsMarksAndWindows := by
  refine ⟨fun g hands z st => ?zone, fun g hands z st => ?check, fun s pic hands => ⟨rfl, evaluatedCheck_eq s pic hands, rfl⟩,
    fun g c hands ms ph => ?phase, fun w m win le => ?window, fun ir h le => ?history⟩
  case zone =>
    have whole := complete_iff hands z.members
    exact ⟨rfl, windows_evaluateZone g hands z st, fun all => history_evaluateZone_complete (whole.mpr all),
      fun part => if_neg (mt whole.mp part), rfl, whole, phases_evaluateZone g hands z st, rfl, rfl,
      fun all => references_evaluateZone_complete (whole.mpr all),
      fun part => references_evaluateZone_incomplete (mt whole.mp part)⟩
  case check =>
    exact ⟨rfl, rfl, rfl, complete_checkMembersOf hands z,
      fun ph => ⟨windows_evaluateCheck g hands z st ph, phases_evaluateCheck g hands z st ph⟩⟩
  case phase =>
    exact ⟨idOf_eq hands ms ph, irOf_eq hands ms ph, idOf_le_irOf hands ms ph, operateMark_iff g c hands ms ph,
      normalTest_iff g hands ms ph, checkMark_iff g hands ms ph, rfl⟩
  case window =>
    rw [pushMark_eq]
    exact ⟨length_pushBounded_le le, pushBounded_short, pushBounded_full⟩
  case history =>
    rw [pushIr_eq]
    exact ⟨length_pushBounded_le le, fun room => ⟨pushBounded_short room, if_neg room.ne⟩,
      fun full => ⟨pushBounded_full full, if_pos full⟩⟩

end Sys2Proof.Proofs
end

section
/-! PROOFS. The classifier (O48): onset, span, evolving fault and return to QUIET at a release, and the rows that make one of these moves
alone. -/

namespace Sys2Proof.Proofs

open Sys2Proof Sys2Proof.Machine Sys2Proof.Claims

/-! ### Some phase, all phases -/

theorem any_iff {α : Type} (f : α → Bool) (x : PerPhase α) :
    x.any f = true ↔ f x.l1 = true ∨ f x.l2 = true ∨ f x.l3 = true := by
  rw [PerPhase.any, Bool.or_eq_true, Bool.or_eq_true, or_assoc]

theorem all_iff {α : Type} (f : α → Bool) (x : PerPhase α) :
    x.all f = true ↔ f x.l1 = true ∧ f x.l2 = true ∧ f x.l3 = true := by
  rw [PerPhase.all, Bool.and_eq_true, Bool.and_eq_true, and_assoc]

theorem any_iff_get {α : Type} (f : α → Bool) (x : PerPhase α) : x.any f = true ↔ ∃ ph, f (x.get ph) = true := by
  rw [any_iff]
  constructor
  · rintro (h | h | h)
    · exact ⟨.l1, h⟩
    · exact ⟨.l2, h⟩
    · exact ⟨.l3, h⟩
  · rintro ⟨ph, h⟩
    cases ph with
    | l1 => exact .inl h
    | l2 => exact .inr (.inl h)
    | l3 => exact .inr (.inr h)

theorem getPhase_zip {α β γ : Type} (f : α → β → γ) (x : PerPhase α) (y : PerPhase β) (ph : Phase) :
    (x.zip f y).get ph = f (x.get ph) (y.get ph) := by
  cases ph <;> rfl

/-! ### The tests (R121 to R124) -/

theorem rises_iff (step ir : Nat) (ref : Option Nat) : rises step ir ref = true ↔ ∃ r, ref = some r ∧ r + step ≤ ir := by
  cases ref <;> simp [rises]

/-- The onset test: a phase with a reference has risen by the step (R121). -/
theorem anyRises_iff (step : Nat) (r : PerPhase PhaseResult) (reference : PerPhase (Option Nat)) :
    (r.zip (fun m ref => rises step m.ir ref) reference).any id = true ↔
      ∃ ph ref, reference.get ph = some ref ∧ ref + step ≤ (r.get ph).ir := by
  simp only [any_iff_get, getPhase_zip, id, rises_iff]

/-- Half the span, rounded up, is reached just when twice the marks reach the span (R122). -/
theorem halfSpan_iff (g : Settings) (n : Nat) : halfSpan g n = true ↔ g.onsetSpan ≤ 2 * n := by
  rw [halfSpan, decide_eq_true_iff]
  omega

theorem anyHalfSpan_iff (g : Settings) (x : PerPhase Nat) :
    x.any (halfSpan g) = true ↔ g.onsetSpan ≤ 2 * x.l1 ∨ g.onsetSpan ≤ 2 * x.l2 ∨ g.onsetSpan ≤ 2 * x.l3 := by
  simp only [any_iff, halfSpan_iff]

theorem evolves_iff (g : Settings) (normal : PerPhase Bool) (c : ClassifierState) :
    evolves g normal c = true ↔
      g.onsetSpan ≤ (c.evolvingAfter normal).l1 ∨ g.onsetSpan ≤ (c.evolvingAfter normal).l2 ∨
        g.onsetSpan ≤ (c.evolvingAfter normal).l3 := by
  simp only [evolves, any_iff, decide_eq_true_iff]

theorem allBelow_eq (level : Nat) (r : PerPhase PhaseResult) :
    (r.all fun m => decide (m.ir < level)) = decide (r.l1.ir < level ∧ r.l2.ir < level ∧ r.l3.ir < level) := by
  rw [Bool.eq_iff_iff, all_iff]
  simp only [decide_eq_true_iff]

theorem count_eq_add (m : Bool) (n : Nat) : (if m = true then n + 1 else n) = n + if m = true then 1 else 0 := by
  cases m <;> rfl

/-- The counts with the marks added as numbers, which is how the row SPAN_END tells them (R122). -/
theorem marksAfter_eq_add (c : ClassifierState) (marks : PerPhase Bool) :
    c.marksAfter marks =
      ⟨c.onsetMarks.l1 + if marks.l1 = true then 1 else 0, c.onsetMarks.l2 + if marks.l2 = true then 1 else 0,
        c.onsetMarks.l3 + if marks.l3 = true then 1 else 0⟩ := by
  rw [ClassifierState.marksAfter, PerPhase.zip, PerPhase.mk.injEq]
  exact ⟨count_eq_add .., count_eq_add .., count_eq_add ..⟩

theorem anyMarksAfter_iff (g : Settings) (c : ClassifierState) (marks : PerPhase Bool) :
    (c.marksAfter marks).any (halfSpan g) = true ↔
      g.onsetSpan ≤ 2 * (c.onsetMarks.l1 + if marks.l1 = true then 1 else 0) ∨
        g.onsetSpan ≤ 2 * (c.onsetMarks.l2 + if marks.l2 = true then 1 else 0) ∨
        g.onsetSpan ≤ 2 * (c.onsetMarks.l3 + if marks.l3 = true then 1 else 0) := by
  rw [marksAfter_eq_add, anyHalfSpan_iff]

/-! ### The steps of the classifier (R121 to R124) -/

section Steps

variable {g : Settings} {marks : PerPhase Bool} {below : Bool} {c : ClassifierState}

theorem onsetSpanStep_counts (short : c.span + 1 < g.onsetSpan) :
    onsetSpanStep g marks c = { c with span := c.span + 1, onsetMarks := c.marksAfter marks } :=
  if_neg (Nat.not_le.mpr short)

/-- The span has ended, and the zone is judged by whatever says that the marks of some phase suffice (R122). -/
theorem onsetSpanStep_ends {inside : Prop} [Decidable inside] (ends : g.onsetSpan ≤ c.span + 1)
    (suffice : (c.marksAfter marks).any (halfSpan g) = true ↔ inside) :
    onsetSpanStep g marks c =
      { state := if inside then .internal else .external
        span := 0, onsetMarks := ⟨0, 0, 0⟩, quiet := 0, evolving := if inside then c.evolving else ⟨0, 0, 0⟩ } := by
  simp only [onsetSpanStep, if_pos ends, suffice]

theorem returnStep_eq (g : Settings) (below : Bool) (c : ClassifierState) : returnStep g below c = quietCounted g below c := rfl

theorem returnStep_returns (reaches : g.quietSpan ≤ c.quietAfter below) :
    returnStep g below c = { c with state := .quiet, quiet := 0, evolving := ⟨0, 0, 0⟩ } := if_pos reaches

theorem externalStep_eq (g : Settings) (normal : PerPhase Bool) (below : Bool) (c : ClassifierState) :
    externalStep g normal below c =
      if g.onsetSpan ≤ (c.evolvingAfter normal).l1 ∨ g.onsetSpan ≤ (c.evolvingAfter normal).l2 ∨
          g.onsetSpan ≤ (c.evolvingAfter normal).l3 then c.evolved
      else quietCounted g below { c with evolving := c.evolvingAfter normal } := by
  simp only [externalStep, evolves_iff, returnStep_eq]

end Steps

/-! ### The classifier work of a release (R120) -/

section Release

variable {g : Settings} {h : ZoneHand} {c : ClassifierState}

theorem classifierStep_incomplete (part : h.result.complete = false) : classifierStep g h c = c := by
  rw [classifierStep, part, if_neg Bool.false_ne_true]

theorem classifierStep_quiet (whole : h.result.complete = true) (quiet : c.state = .quiet) :
    classifierStep g h c = quietStep g h c := by
  simp only [classifierStep, if_pos whole, quiet]

theorem classifierStep_onset (whole : h.result.complete = true) (onset : c.state = .onset) :
    classifierStep g h c = onsetSpanStep g (h.result.phases.map PhaseResult.mark) c := by
  simp only [classifierStep, if_pos whole, onset]

theorem classifierStep_internal (whole : h.result.complete = true) (internal : c.state = .internal) :
    classifierStep g h c = returnStep g (h.result.phases.all fun r => decide (r.ir < g.irreset)) c := by
  simp only [classifierStep, if_pos whole, internal]

theorem classifierStep_external (whole : h.result.complete = true) (external : c.state = .external) :
    classifierStep g h c =
      externalStep g (h.result.phases.map PhaseResult.normal) (h.result.phases.all fun r => decide (r.ir < g.irreset)) c := by
  simp only [classifierStep, if_pos whole, external]

end Release

/-! ### SPAN_END, EVOLVING_FAULT, RETURN_TO_QUIET (R122 to R124; log entry 3) -/

/-- A row's change of one zone's classifier, told by its condition on the zone and by what becomes of the zone. -/
theorem stepClassifier_eq {s : State} {z : BusZone} {when : ClassifierState → Bool} {step : ClassifierState → ClassifierState}
    {p : ZoneState → Prop} [∀ st, Decidable (p st)] {moved : ZoneState → ZoneState}
    (cond : ∀ st, st.name = z ∧ when st.classifier = true ↔ p st)
    (move : ∀ st, p st → { st with classifier := step st.classifier } = moved st) :
    s.stepClassifier z when step = { s with zones := s.zones.map fun st => if p st then moved st else st } := by
  have each : (fun st : ZoneState =>
      if st.name = z ∧ when st.classifier = true then { st with classifier := step st.classifier } else st) =
      fun st => if p st then moved st else st :=
    funext fun st => ite_congr (propext (cond st)) (move st) fun _ => rfl
  rw [State.stepClassifier, each]

section Rows

variable {s : State} (on : powered s) (z : BusZone) (marks : PerPhase Bool)
include on

theorem exec_spanEnd :
    exec (.spanEnd z marks) s =
      .next (s.stepClassifier z (fun c => c.state == .onset && s.active.onsetSpan ≤ c.span + 1) (onsetSpanStep s.active marks)) := by
  rw [exec, execSpanEnd, event_on on]

theorem exec_evolvingFault :
    exec (.evolvingFault z marks) s =
      .next (s.stepClassifier z (fun c => c.state == .external && evolves s.active marks c) ClassifierState.evolved) := by
  rw [exec, execEvolvingFault, event_on on]

theorem exec_returnToQuiet :
    exec (.returnToQuiet z) s =
      .next (s.stepClassifier z
        (fun c => (c.state == .internal || c.state == .external) && s.active.quietSpan ≤ c.quietAfter true)
        (returnStep s.active true)) := by
  rw [exec, execReturnToQuiet, event_on on]

end Rows

/-- Settles O48: the release by the state its work begins in, then each row by its condition on a zone and its move. -/
theorem classifierRows : Obligations.ClassifierRows := by
  refine ⟨fun g h c => ⟨classifierStep_incomplete, fun whole =>
      ⟨fun quiet => ?quiet, fun onset => ?onset, fun internal => ?internal, fun external => ?external⟩⟩,
    fun z marks s on => ⟨?spanEnd, ?evolvingFault, ?returnToQuiet⟩⟩
  case quiet =>
    rw [classifierStep_quiet whole quiet]
    have test := anyRises_iff g.onsetStep h.result.phases h.reference
    exact ⟨fun stays => if_neg (mt test.mp stays), fun risen => if_pos (test.mpr risen)⟩
  case onset =>
    rw [classifierStep_onset whole onset]
    exact ⟨onsetSpanStep_counts, fun ends => onsetSpanStep_ends ends (anyHalfSpan_iff g _)⟩
  case internal =>
    rw [classifierStep_internal whole internal, allBelow_eq, returnStep_eq]
  case external =>
    rw [classifierStep_external whole external, allBelow_eq, externalStep_eq]
    rfl
  case spanEnd =>
    rw [exec_spanEnd on]
    refine congrArg Host.Outcome.next (stepClassifier_eq (fun st => ?_) fun st ⟨_, _, ends⟩ => ?_)
    · rw [Bool.and_eq_true, beq_iff_eq, decide_eq_true_iff]
      rfl
    · exact congrArg (fun c => { st with classifier := c }) (onsetSpanStep_ends ends (anyMarksAfter_iff ..))
  case evolvingFault =>
    rw [exec_evolvingFault on]
    refine congrArg Host.Outcome.next (stepClassifier_eq (fun st => ?_) fun st _ => rfl)
    rw [Bool.and_eq_true, beq_iff_eq, evolves_iff]
    rfl
  case returnToQuiet =>
    rw [exec_returnToQuiet on]
    refine congrArg Host.Outcome.next (stepClassifier_eq (fun st => ?_) fun st ⟨_, _, reaches⟩ => ?_)
    · rw [Bool.and_eq_true, Bool.or_eq_true, beq_iff_eq, beq_iff_eq, decide_eq_true_iff]
      rfl
    · exact congrArg (fun c => { st with classifier := c }) (returnStep_returns (g := s.active) (below := true) reaches)

end Sys2Proof.Proofs
end

section
/-! PROOFS. The connected bays of a zone (O50), latches and acknowledgement (O52), the ends of echo and order timers (O53), SEND_ORDER (O54). -/

namespace Sys2Proof.Proofs

open Sys2Proof Sys2Proof.Machine Sys2Proof.Claims

/-! ### Connected bays (R136) -/

theorem connectedTo_outside {b : BayRecord} (zs : List BusZone) (h : b.service ≠ .inService) : b.connectedTo zs = false := by
  rw [BayRecord.connectedTo, Bool.eq_false_iff.mpr (mt (inService_iff b).mp h), Bool.false_and]

theorem connectedTo_feeder {b : BayRecord} (zs : List BusZone) (h : b.service = .inService) (hk : b.kind = .feeder) :
    b.connectedTo zs = true ↔
      (b.effective .isolatorA = .closed ∧ zoneA b.sectionNo ∈ zs) ∨ (b.effective .isolatorB = .closed ∧ zoneB b.sectionNo ∈ zs) := by
  simp only [BayRecord.connectedTo, (inService_iff b).mpr h, hk, Bool.true_and, Bool.or_eq_true, Bool.and_eq_true, shut_iff,
    List.contains_iff_mem]

theorem connectedTo_coupler {b : BayRecord} (zs : List BusZone) (h : b.service = .inService) (hk : b.kind = .coupler) :
    b.connectedTo zs = true ↔ zoneA b.sectionNo ∈ zs ∨ zoneB b.sectionNo ∈ zs := by
  simp only [BayRecord.connectedTo, (inService_iff b).mpr h, hk, Bool.true_and, Bool.or_eq_true, List.contains_iff_mem]

theorem connectedTo_sectionBay {b : BayRecord} (zs : List BusZone) (h : b.service = .inService) (hk : b.kind = .sectionBay) :
    b.connectedTo zs = true ↔ zoneOne b.bus ∈ zs ∨ zoneTwo b.bus ∈ zs := by
  simp only [BayRecord.connectedTo, (inService_iff b).mpr h, hk, Bool.true_and, Bool.or_eq_true, List.contains_iff_mem]

/-- Settles O50: by SERVICE, then by the kind of the bay; the list is part of all positions in their order. -/
theorem connectedBaysOfAZone : Obligations.ConnectedBaysOfAZone := by
  refine fun bays zs => ⟨fun p => (mem_where bays _ p).trans ?connected, where_ascending bays _⟩
  case connected =>
    by_cases inUse : (bays.get p).service = .inService
    · cases hk : (bays.get p).kind with
      | feeder => simp [connectedTo_feeder zs inUse hk, inUse]
      | coupler => simp [connectedTo_coupler zs inUse hk, inUse]
      | sectionBay => simp [connectedTo_sectionBay zs inUse hk, inUse]
    · simp [connectedTo_outside zs inUse, inUse]

/-! ### Latches (R139, R140, R153) -/

/-- Changes that do the same to the trip state at hand are one change. -/
theorem modTrip_congr (s : State) (p : Pos) {f g : TripState → TripState} (h : f (s.tripState p) = g (s.tripState p)) :
    s.modTrip p f = s.modTrip p g := by
  rw [State.modTrip, modify_congr s.trip.bays p h]
  rfl

theorem setLatch_set {s : State} {p : Pos} {k : LatchKind} (q : Seq) (h : ((s.tripState p).latch k).set = true) :
    s.setLatch p k q = s := if_pos h

/-- A trip state with one latch set at release q and no order left. -/
theorem withLatch_orderless (g : Settings) (k : LatchKind) (q : Seq) (t : TripState) :
    (t.withLatch k (Latch.setAt g q)).cancelled g (fun _ => true) =
      { t with
        trip := if k = .trip then Latch.setAt g q else t.trip
        transfer := if k = .transferTrip then Latch.setAt g q else t.transfer
        inFlight := none, reserved := none } := by
  rw [cancelled_every]
  cases k <;> rfl

/-- Setting a latch touches none of the bay's orders. -/
theorem takenOrders_withLatch (t : TripState) (k : LatchKind) (l : Latch) (which : OrderKind → Bool) :
    (t.withLatch k l).takenOrders which = t.takenOrders which := by
  cases k <;> rfl

theorem setLatch_clear {s : State} {p : Pos} {k : LatchKind} (q : Seq) (h : ((s.tripState p).latch k).set = false) :
    s.setLatch p k q =
      (s.modTrip p fun t =>
        { t with
          trip := if k = .trip then Latch.setAt s.active q else t.trip
          transfer := if k = .transferTrip then Latch.setAt s.active q else t.transfer
          inFlight := none, reserved := none }).postAll (cancellations s p (fun _ => true) .latch) := by
  rw [State.setLatch, if_neg (Bool.eq_false_iff.mp h), State.cancelOrders, active_modTrip, modTrip_modTrip, tripState_modTrip,
    takenOrders_withLatch, funext (withLatch_orderless s.active k q)]
  rfl

theorem confirm_eq (seen : Bool) (l : Latch) :
    l.confirm seen =
      if l.set = true ∧ l.confirmed = false ∧ seen = true then { l with confirmed := true, echo := none } else l := by
  simp only [Latch.confirm, Bool.and_eq_true, Bool.not_eq_true', and_assoc]

/-- Settles O52: the first part and one bay's share as they are defined, a latch by whether it is set, a confirmation. -/
theorem latchesAreSetAndConfirmed : Obligations.LatchesAreSetAndConfirmed :=
  ⟨fun _ _ _ _ => rfl, fun _ _ _ => rfl, fun _ _ _ q => ⟨setLatch_set q, setLatch_clear q⟩, confirm_eq⟩

/-! ### The ends of a flight (R152) -/

theorem completeOrder_bears {s : State} {p : Pos} {echo : Nat} {f : Flight} (q : Seq) (h : (s.tripState p).inFlight = some f)
    (bears : f.order.tag = echo) :
    s.completeOrder p q echo = (landed s p).post { subject := .bay p, detail := .orderDone f.order.kind f.order.tag q } := by
  simp only [State.completeOrder, h, if_pos bears]
  rfl

theorem completeOrder_other {s : State} {p : Pos} {echo : Nat} (q : Seq)
    (h : ∀ f, (s.tripState p).inFlight = some f → f.order.tag ≠ echo) : s.completeOrder p q echo = s := by
  rw [State.completeOrder]
  cases flight : (s.tripState p).inFlight with
  | none => rfl
  | some f => exact if_neg (h f flight)

theorem exec_orderDone_none {s : State} {p : Pos} (on : powered s) (h : (s.tripState p).inFlight = none) :
    exec (.orderDone p) s = .next s := by
  simp only [exec, execOrderDone, event_on on, h]

theorem exec_orderTimeout_none {s : State} {p : Pos} (on : powered s) (h : (s.tripState p).inFlight = none) :
    exec (.orderTimeout p) s = .next s := by
  simp only [exec, execOrderTimeout, event_on on, h]

theorem exec_orderDone_some {s : State} {p : Pos} {f : Flight} (on : powered s) (h : (s.tripState p).inFlight = some f) :
    exec (.orderDone p) s = .next
      ((landed s p).post { subject := .bay p, detail := .orderDone f.order.kind f.order.tag s.releaseUnit.next }) := by
  simp only [exec, execOrderDone, event_on on, h, completeOrder_bears s.next h rfl]
  rfl

theorem exec_orderTimeout_ends {s : State} {p : Pos} {f : Flight} (on : powered s) (h : (s.tripState p).inFlight = some f)
    (last : f.timer = 1) :
    exec (.orderTimeout p) s = .next
      ((landed s p).post { subject := .bay p, detail := .orderTimeout f.order.kind f.order.tag }) := by
  simp only [exec, execOrderTimeout, event_on on, h, tickOrder_some h, if_pos (Nat.le_of_eq last)]

/-! ### TRIP_UNCONFIRMED (R140) -/

theorem exec_tripUnconfirmed_still {s : State} {p : Pos} {k : LatchKind} (on : powered s) (h : ((s.tripState p).latch k).echo = none) :
    exec (.tripUnconfirmed p k) s = .next s := by
  have stands : ¬ ((s.tripState p).latch k).runsOut = true := by simp [Latch.runsOut, h]
  exact (event_on on).trans (by rw [if_neg stands])

theorem tickedLatch_last {l : Latch} (h : l.echo = some 1) : tickedLatch l = { l with echo := none } := by
  simp [tickedLatch, h]

theorem exec_tripUnconfirmed_last {s : State} {p : Pos} {k : LatchKind} (on : powered s)
    (h : ((s.tripState p).latch k).echo = some 1) :
    exec (.tripUnconfirmed p k) s = .next
      ((s.modTrip p fun t => t.withLatch k { t.latch k with echo := none }).post
        { subject := .bay p, detail := .tripUnconfirmed k ((s.tripState p).latch k).sequence }) := by
  have ends : ((s.tripState p).latch k).runsOut = true := by simp [Latch.runsOut, h]
  have stopped : (s.modTrip p fun t => t.withLatch k (tickedLatch (t.latch k))) =
      s.modTrip p fun t => t.withLatch k { t.latch k with echo := none } :=
    modTrip_congr s p (by rw [tickedLatch_last h])
  refine (event_on on).trans (congrArg Host.Outcome.next ((if_pos ends).trans ?_))
  rw [tickLatch_eq, stopped]
  exact if_pos ends

/-- Settles O53: a consumed echo by whether the order in flight bears it, then each row with and without its timer or order. -/
theorem echoAndOrderTimersEnd : Obligations.EchoAndOrderTimersEnd :=
  ⟨fun _ _ q _ => ⟨fun _ => completeOrder_bears q, completeOrder_other q⟩,
    fun _ _ on => ⟨exec_tripUnconfirmed_last (k := .trip) on, exec_tripUnconfirmed_last (k := .transferTrip) on,
      fun _ => exec_tripUnconfirmed_still on⟩,
    fun _ _ on => ⟨fun h => ⟨exec_orderDone_none on h, exec_orderTimeout_none on h⟩,
      fun _ h => ⟨exec_orderDone_some on h, exec_orderTimeout_ends on h⟩⟩⟩

/-! ### SEND_ORDER (R151, R152) -/

/-- The arguments that a kind of order takes (R151). -/
def OrderArgument (a : Nat) : OrderKind → Prop
  | .testTrip => 1 ≤ a ∧ a ≤ 2400
  | .ping => a ≤ 65535
  | .enterTest => a ≤ 3600
  | .leaveTest => a = 0
  | .resetUnit => a ≤ 1

theorem takes_iff (k : OrderKind) (a : Nat) : k.takes a = true ↔ OrderArgument a k := by
  cases k <;> simp [OrderKind.takes, OrderArgument]

theorem forbidden_iff (k : OrderKind) (v : Service) :
    k.forbidden v = true ↔ (k = .testTrip ∧ v ≠ .maintenance) ∨ (k = .resetUnit ∧ v = .inService) := by
  cases k <;> simp [OrderKind.forbidden]

theorem latched_iff (t : TripState) : t.latched = true ↔ t.trip.set = true ∨ t.transfer.set = true := Bool.or_eq_true_iff

theorem orderKindOf_none {n : Nat} (h : 4 < n) : orderKindOf n = none := by
  obtain ⟨_, rfl⟩ := Nat.exists_eq_add_of_le' h
  rfl

theorem askSendOrder_outside {b k : Nat} (a : Nat) (s : State) (h : bayOf b = none ∨ 4 < k) :
    askSendOrder b k a s = s.answer .badValue := by
  rw [askSendOrder]
  rcases h with hb | hk
  · rw [hb]
  · rw [orderKindOf_none hk]
    cases bayOf b <;> rfl

theorem askSendOrder_bay {b k a : Nat} {p : Pos} {kind : OrderKind} (s : State) (hb : bayOf b = some p)
    (hk : orderKindOf k = some kind) :
    askSendOrder b k a s = if kind.takes a then s.sendOrder p kind a else s.answer .badValue := by
  simp only [askSendOrder, hb, hk]

/-- The checks of SEND_ORDER after the first, in order. -/
theorem orderRefusal_eq (s : State) (p : Pos) (k : OrderKind) :
    s.orderRefusal p k =
      if (s.bay p).configured = false then some .notConfigured
      else if (k = .testTrip ∧ (s.bay p).service ≠ .maintenance) ∨ (k = .resetUnit ∧ (s.bay p).service = .inService) then
        some .badState
      else if (s.link p).state ≠ .active then some .linkNotActive
      else if (s.tripState p).trip.set = true ∨ (s.tripState p).transfer.set = true then some .tripLatched
      else if (s.tripState p).inFlight ≠ none ∧ (s.tripState p).reserved ≠ none then some .busy
      else none := by
  simp only [State.orderRefusal, Bool.not_eq_true', forbidden_iff, bne_iff_ne, latched_iff, Bool.and_eq_true,
    Option.isSome_iff_ne_none]

/-- The state that an order given to a bay leaves: in flight where none is, else reserved. -/
def orderGiven (s : State) (p : Pos) (o : Order) : State :=
  if (s.tripState p).inFlight = none then
    answered (s.modTrip p fun t => { t with inFlight := some { order := o, timer := s.active.echoSpan }, lastTag := o.tag })
      .sent (.tag o.tag)
  else answered (s.modTrip p fun t => { t with reserved := some o, lastTag := o.tag }) .reserved (.tag o.tag)

theorem orderGiven_eq (s : State) (p : Pos) (o : Order) :
    answered (s.modTrip p (TripState.give s.active o)) (if (s.tripState p).inFlight.isNone then .sent else .reserved) (.tag o.tag) =
      orderGiven s p o := by
  unfold orderGiven
  by_cases empty : (s.tripState p).inFlight = none
  · have flies : TripState.give s.active o (s.tripState p) =
        { s.tripState p with inFlight := some (o.fly s.active), lastTag := o.tag } := by simp [TripState.give, empty]
    rw [if_pos empty, modTrip_congr s p (g := fun t => { t with inFlight := some (o.fly s.active), lastTag := o.tag }) flies, empty]
    rfl
  · have reserves : TripState.give s.active o (s.tripState p) = { s.tripState p with reserved := some o, lastTag := o.tag } := by
      simp [TripState.give, empty]
    rw [if_neg empty, modTrip_congr s p (g := fun t => { t with reserved := some o, lastTag := o.tag }) reserves,
      if_neg (by simpa using empty)]

/-- What SEND_ORDER with its operands read comes to, by the check that refuses it. -/
theorem handed_sendOrder_elim (s : State) (p : Pos) (k : OrderKind) (a : Nat) :
    handed (s.sendOrder p k a) =
      (s.orderRefusal p k).elim
        (orderGiven s p { kind := k, tag := nextTag (s.tripState p).lastTag, argument := a }) fun c => answered s c := by
  rw [← orderGiven_eq, State.sendOrder]
  cases s.orderRefusal p k <;> rfl

/-- The checks of SEND_ORDER in order, then the order given under the next tag. -/
theorem handed_sendOrder (s : State) (p : Pos) (k : OrderKind) (a : Nat) :
    handed (s.sendOrder p k a) =
      if (s.bay p).configured = false then answered s .notConfigured
      else if (k = .testTrip ∧ (s.bay p).service ≠ .maintenance) ∨ (k = .resetUnit ∧ (s.bay p).service = .inService) then
        answered s .badState
      else if (s.link p).state ≠ .active then answered s .linkNotActive
      else if (s.tripState p).trip.set = true ∨ (s.tripState p).transfer.set = true then answered s .tripLatched
      else if (s.tripState p).inFlight ≠ none ∧ (s.tripState p).reserved ≠ none then answered s .busy
      else orderGiven s p { kind := k, tag := nextTag (s.tripState p).lastTag, argument := a } := by
  rw [handed_sendOrder_elim, orderRefusal_eq]
  split_ifs <;> rfl

/-- Settles O54: the operands, then the checks in order and the order given. -/
theorem sendOrderFliesOrReserves : Obligations.SendOrderFliesOrReserves := by
  refine fun b k a s on => ⟨fun bad => request_answers on (askSendOrder_outside a s bad), fun p kind hb hk => ?bay⟩
  case bay =>
    have asked := askSendOrder_bay (a := a) s hb hk
    refine ⟨fun outside => request_answers on (asked.trans (if_neg (mt (takes_iff kind a).mp outside))), fun inside => ?checks⟩
    case checks =>
      refine (request_handed on).trans ?_
      rw [asked, if_pos ((takes_iff kind a).mpr inside), handed_sendOrder]
      rfl

end Sys2Proof.Proofs
end

section
/-! PROOFS. RESET_TRIP (O56), for one bay and for ALL, and the table of trip records (O57). -/

namespace Sys2Proof.Proofs

open Sys2Proof Sys2Proof.Machine Sys2Proof.Claims

/-! ### One bay cleared (R138, R141) -/

theorem resetTrip_eq (t : TripState) : t.resetTrip = unlatched t := leave_eq t

theorem resetBay_eq (s : State) (p : Pos) : s.resetBay p = tripReset s p := by
  rw [State.resetBay, funext resetTrip_eq]
  rfl

theorem unlatched_unlatched (t : TripState) : unlatched (unlatched t) = unlatched t := by
  by_cases failed : t.bf = .failed <;> simp [unlatched, failed]

/-- Clearing ends no timing and begins none. -/
theorem timing_unlatched (t : TripState) : (unlatched t).timing = t.timing := by
  by_cases failed : t.bf = .failed <;> simp [unlatched, TripState.timing, failed]

theorem tripState_tripReset (s : State) (p r : Pos) :
    (tripReset s p).tripState r = if r = p then unlatched (s.tripState r) else s.tripState r :=
  Table.get_modify s.trip.bays p r unlatched

/-! ### The checks (R141) -/

theorem flows_eq (s : State) (p : Pos) : ((s.bay p).last.all fun l => flowing s.active.ibf l.currents) = flows s p := by
  unfold flows
  cases (s.bay p).last with
  | none => rfl
  | some l => simp [flowing, PerPhase.any, Bool.or_assoc]

/-- Checks 4 and 5 in order. -/
theorem resetRefusal_eq (s : State) (p : Pos) :
    s.resetRefusal p =
      if flows s p = true then some .currentFlowing else if (s.tripState p).bf = .timing then some .bfRunning else none := by
  simp only [State.resetRefusal, flows_eq, TripState.timing, beq_iff_eq]

theorem holds_iff (t : TripState) : t.holds = true ↔ ¬ (t.trip.set = false ∧ t.transfer.set = false ∧ t.bf ≠ .failed) := by
  simp only [TripState.holds, TripState.failed, Bool.or_eq_true, latched_iff, beq_iff_eq]
  simp only [← Bool.not_eq_true]
  tauto

/-- Clearing a bay changes no bay's checks 4 and 5. -/
theorem resetRefusal_tripReset (s : State) (p r : Pos) : (tripReset s p).resetRefusal r = s.resetRefusal r := by
  have timing : ((tripReset s p).tripState r).timing = (s.tripState r).timing := by
    rw [tripState_tripReset]
    split
    · exact timing_unlatched _
    · rfl
  simp only [State.resetRefusal, timing]
  rfl

/-! ### RESET_TRIP for one bay -/

theorem askResetTrip_outside {n : Nat} (s : State) (h0 : n ≠ 0) (hn : bayOf n = none) : askResetTrip n s = s.answer .badValue := by
  rw [askResetTrip, if_neg h0, State.resetOne, hn]

/-- The answer where a latch or a FAILED state is held: the two last checks, then the clearing. -/
def resetAnswer (s : State) (p : Pos) : Answer :=
  match s.resetRefusal p with
  | some c => s.answer c
  | none => (s.resetBay p).answer .ok (.trip ((s.resetBay p).tripSummary p))

theorem handed_resetAnswer (s : State) (p : Pos) :
    handed (resetAnswer s p) =
      if flows s p = true then answered s .currentFlowing
      else if (s.tripState p).bf = .timing then answered s .bfRunning
      else answered (tripReset s p) .ok (.trip ((tripReset s p).tripSummary p)) := by
  rw [resetAnswer, resetRefusal_eq, resetBay_eq]
  split_ifs <;> rfl

theorem askResetTrip_bay {n : Nat} {p : Pos} (s : State) (h0 : n ≠ 0) (hn : bayOf n = some p) :
    askResetTrip n s =
      if (s.bay p).configured = false then s.answer .notConfigured
      else if (s.tripState p).trip.set = false ∧ (s.tripState p).transfer.set = false ∧ (s.tripState p).bf ≠ .failed then
        s.answer .ok (.trip (s.tripSummary p))
      else resetAnswer s p := by
  simp only [askResetTrip, if_neg h0, State.resetOne, hn, holds_iff, ite_not]
  cases (s.bay p).configured <;> rfl

/-! ### RESET_TRIP with ALL -/

/-- Bays looked at one after another: those that pass the checks at the start are cleared. -/
theorem foldl_resetIfPasses :
    ∀ (ps : List Pos) (s : State),
      ps.foldl State.resetIfPasses s = (ps.filter fun p => (s.resetRefusal p).isNone).foldl tripReset s
  | [], _ => rfl
  | p :: ps, s => by
    by_cases passes : (s.resetRefusal p).isNone = true
    · have cleared : s.resetIfPasses p = tripReset s p := (if_pos passes).trans (resetBay_eq s p)
      rw [List.foldl_cons, cleared, foldl_resetIfPasses ps, List.filter_cons_of_pos (p := fun x => (s.resetRefusal x).isNone) passes,
        List.foldl_cons]
      simp only [resetRefusal_tripReset]
    · have left : s.resetIfPasses p = s := if_neg passes
      rw [List.foldl_cons, left, foldl_resetIfPasses ps, List.filter_cons_of_neg (p := fun x => (s.resetRefusal x).isNone) passes]

/-- The trip states after bays are cleared one after another. -/
theorem tripState_foldl_tripReset (p : Pos) :
    ∀ (ps : List Pos) (s : State),
      (ps.foldl tripReset s).tripState p = if p ∈ ps then unlatched (s.tripState p) else s.tripState p
  | [], _ => rfl
  | x :: ps, s => by
    rw [List.foldl_cons, tripState_foldl_tripReset p ps, tripState_tripReset]
    by_cases here : p = x
    · simp [here, unlatched_unlatched]
    · simp [here]

theorem passes_eq (s : State) (p : Pos) : (s.resetRefusal p).isNone = (!flows s p && (s.tripState p).bf != .timing) := by
  rw [resetRefusal_eq]
  by_cases flow : flows s p = true
  · simp [flow]
  · by_cases timing : (s.tripState p).bf = .timing <;> simp [flow, timing]

/-- Checks 4 and 5 as the test for a bay refused, with its code. -/
theorem refusal_guard (s : State) (p : Pos) :
    (s.resetRefusal p).map (fun c => (p, c)) =
      (Option.guard (fun x => flows s x || (s.tripState x).bf == BfState.timing) p).map
        fun x => (x, if flows s x then .currentFlowing else .bfRunning) := by
  rw [resetRefusal_eq]
  by_cases flow : flows s p = true
  · simp [Option.guard, flow]
  · by_cases timing : (s.tripState p).bf = .timing <;> simp [Option.guard, flow, timing]

theorem refusals_eq (s : State) (ps : List Pos) :
    (ps.filterMap fun p => (s.resetRefusal p).map fun c => (p, c)) =
      (ps.filter fun p => flows s p || (s.tripState p).bf == BfState.timing).map
        fun p => (p, if flows s p then .currentFlowing else .bfRunning) := by
  rw [funext (refusal_guard s), ← List.filterMap_eq_filter, List.map_filterMap]

/-- Settles O56: one bay by the checks in order; with ALL, the bays looked at by whether they pass. -/
theorem resetTripClearsLatches : Obligations.ResetTripClearsLatches := by
  refine fun s on => ⟨fun n h0 hn => request_answers on (askResetTrip_outside s h0 hn), fun n p h0 hn => ?one, ?all,
    fun p => tripState_foldl_tripReset p _ s⟩
  case one =>
    refine (request_handed on).trans (congrArg Host.Outcome.next ?_)
    rw [askResetTrip_bay s h0 hn, handed_ite, handed_ite, handed_resetAnswer]
    rfl
  case all =>
    refine request_answers on (show s.resetAll = _ from ?_)
    rw [State.resetAll, foldl_resetIfPasses, refusals_eq, funext (passes_eq s)]
    rfl

/-! ### RELEASE_RECORD (R150) -/

/-- RELEASE_RECORD by whether a record bears the id. -/
theorem askReleaseRecord_eq (i : Nat) (s : State) :
    askReleaseRecord i s =
      if ∃ r ∈ s.trip.records, r.id = i then
        State.answer { s with trip := { s.trip with records := s.trip.records.filter fun r => r.id != i } } .ok
          (.recordsHeld (s.trip.records.filter fun r => r.id != i).length)
      else s.answer .noRecord := by
  simp only [askReleaseRecord, List.any_eq_true, beq_iff_eq]

/-! ### A record offered (R148) -/

/-- The id given: the first from `next` on that no held record bears. -/
theorem freshId_first {held : List Nat} (next : Nat) (h : held.length < 256) :
    ∃ k, k < 256 ∧ freshId held next = (next + k) % 256 ∧ ∀ j, j < k → (next + j) % 256 ∈ held := by
  cases first : (List.range 256).find? fun k => !held.contains ((next + k) % 256) with
  | some k =>
    obtain ⟨_, below, earlier⟩ := List.find?_range_eq_some.mp first
    refine ⟨k, List.mem_range.mp below, ?_, fun j hj => by simpa using earlier j hj⟩
    rw [freshId, List.find?_map]
    exact congrArg (fun o => (o.map fun k => (next + k) % 256).getD next) first
  | none =>
    have taken : next % 256 ∈ held := by simpa using List.find?_eq_none.mp first 0 (by simp)
    have given : freshId held (next % 256) = next % 256 := by
      simp only [freshId, List.find?_map, Function.comp_def, Nat.mod_add_mod, first]
      rfl
    exact absurd taken (given ▸ freshId_fresh h)

theorem offer_stored {u : TripUnit} (make : Nat → TripRecord) (bf : Bool) (q : Seq) (h : u.records.length < 8) :
    u.offer make bf q =
      { unit :=
          { u with
            records := u.records ++ [make (freshId (u.records.map TripRecord.id) u.nextId)]
            nextId := (freshId (u.records.map TripRecord.id) u.nextId + 1) % 256 }
        id := some (freshId (u.records.map TripRecord.id) u.nextId)
        follow := if u.records.length = 5 then [{ subject := .device, detail := .recordsNearlyFull 6 }] else [] } := by
  refine (if_pos h).trans ?_
  by_cases sixth : u.records.length = 5
  · simp [sixth, Config.recordsNearlyFull]
  · simp [sixth, Config.recordsNearlyFull]

theorem offer_lost {u : TripUnit} (make : Nat → TripRecord) (bf : Bool) (q : Seq) (h : 8 ≤ u.records.length) :
    u.offer make bf q =
      { unit := { u with lost := upTo16 u.lost }, id := none
        follow := [{ subject := .device, detail := .recordLost bf q (upTo16 u.lost) }] } :=
  if_neg (Nat.not_lt.mpr h)

/-- Settles O57: a release by whether the id is held, an offer by whether the table has room. -/
theorem recordsAreStoredAndReleased : Obligations.RecordsAreStoredAndReleased := by
  refine ⟨fun i s on => ?release, fun u make bf q => ⟨fun room => ?stored, fun full => ?lost⟩⟩
  case release =>
    refine (request_handed on).trans (congrArg Host.Outcome.next ?_)
    rw [askReleaseRecord_eq, handed_ite]
    rfl
  case stored =>
    have short : (u.records.map TripRecord.id).length < 256 := by rw [List.length_map]; omega
    rw [offer_stored make bf q room]
    exact ⟨_, rfl, freshId_fresh short, freshId_first u.nextId short, rfl, rfl⟩
  case lost =>
    rw [offer_lost make bf q full]
    exact ⟨rfl, rfl, rfl⟩

end Sys2Proof.Proofs
end

section
/-! PROOFS. Breaker failure (O55): a TIMING bay's release, the judgement at expiry, and the state that a failure leaves. -/

namespace Sys2Proof.Proofs

open Sys2Proof Sys2Proof.Machine Sys2Proof.Claims

/-! ### A release of a TIMING bay (R143, R144) -/

theorem flowing_eq (ibf : Nat) (i : PerPhase Int) : flowing ibf i = [i.l1, i.l2, i.l3].any fun x => decide (ibf ≤ x.natAbs) := by
  simp [flowing, PerPhase.any, Bool.or_assoc]

theorem failureReasons_eq (s : State) (p : Pos) (seen : Option (PerPhase Int)) :
    (s.bay p).failureReasons s.active seen = reasonsFailed s p seen := by
  simp only [BayRecord.failureReasons, reasonsFailed, shut_iff, Option.isNone_iff_eq_none, funext (flowing_eq s.active.ibf)]

/-- The release shows the breaker cleared where no failure reason holds. -/
theorem showsCleared_iff (s : State) (p : Pos) (seen : Option (PerPhase Int)) :
    (s.bay p).showsCleared s.active seen = true ↔ reasonsFailed s p seen = [] := by
  rw [← failureReasons_eq]
  cases seen <;> simp [BayRecord.showsCleared, BayRecord.failureReasons]

theorem clearAfter_eq (s : State) (p : Pos) (seen : Option (PerPhase Int)) :
    s.clearAfter p seen = if reasonsFailed s p seen = [] then (s.tripState p).clear + 1 else 0 :=
  if_congr (showsCleared_iff s p seen) rfl rfl

theorem expire_cleared {s : State} {p : Pos} {seen : Option (PerPhase Int)} (q : Seq) (h : reasonsFailed s p seen = []) :
    s.expire p q seen = s.modTrip p TripState.bfIdle := by
  rw [← failureReasons_eq] at h
  exact if_pos (List.isEmpty_iff.mpr h)

theorem expire_failed {s : State} {p : Pos} {seen : Option (PerPhase Int)} (q : Seq) (h : reasonsFailed s p seen ≠ []) :
    s.expire p q seen = s.failBreaker p q (reasonsFailed s p seen) seen := by
  rw [← failureReasons_eq] at h ⊢
  exact if_neg (mt List.isEmpty_iff.mp h)

/-! ### The back-trip's bays, the phases of a record (R145, R147) -/

theorem backTripZones_eq (s : State) (p : Pos) : s.backTripZones p = backTrip s p := rfl

theorem mem_backTripped {s : State} {p x : Pos} :
    x ∈ backTripped s p ↔ (∃ z ∈ backTrip s p, x ∈ connectedBays s.bays z.zones) ∧ (s.tripState x).trip.set = false := by
  simp [backTripped, mem_allPos]

theorem backTripped_eq (s : State) (p : Pos) : s.unlatched (connectedToAny s.bays (s.backTripZones p)) = backTripped s p := by
  rw [State.unlatched, connectedToAny, Table.where, List.filter_filter]
  refine List.filter_congr fun x _ => ?_
  simp [connectedBays, mem_where, backTripZones_eq, Bool.and_comm]

/-- The bays that a failure newly latches: those of the back-trip, and a failed feeder whose transfer-trip latch is clear. -/
def failureBays (s : State) (p : Pos) : List Pos :=
  allPos.filter fun x =>
    (backTripped s p).contains x || decide (x = p ∧ (s.bay p).kind = .feeder ∧ (s.tripState p).transfer.set = false)

theorem newlyBackTripped_eq (s : State) (p : Pos) : s.newlyBackTripped p = failureBays s p := by
  rw [State.newlyBackTripped, backTripped_eq]
  refine List.filter_congr fun x _ => ?_
  simp only [Bool.decide_and, Bool.decide_eq_false, Bool.and_assoc]
  rfl

theorem phases_eq (x : PerPhase Bool) : x.phases = ([.l1, .l2, .l3] : List Phase).filter x.get := by
  obtain ⟨l1, l2, l3⟩ := x
  revert l1 l2 l3
  decide

/-- The phases at or above IBF, in the order L1, L2, L3. -/
def phasesAbove (ibf : Nat) : Option (PerPhase Int) → List Phase
  | none => []
  | some i => ([.l1, .l2, .l3] : List Phase).filter fun ph => decide (ibf ≤ (i.get ph).natAbs)

theorem flowingPhases_eq (ibf : Nat) (seen : Option (PerPhase Int)) : flowingPhases ibf seen = phasesAbove ibf seen := by
  cases seen with
  | none => rfl
  | some i => exact phases_eq _

/-! ### The Trip Unit and the notices alone change -/

/-- The state t differs from s in the Trip Unit and the Message Port at most. -/
def TripOnly (s t : State) : Prop := t = { s with trip := t.trip, port := t.port }

theorem TripOnly.trans {s t u : State} (h : TripOnly s t) (k : TripOnly t u) : TripOnly s u := by
  unfold TripOnly at *
  rw [k, h]

theorem TripOnly.foldl {α : Type} {f : State → α → State} (step : ∀ u a, TripOnly u (f u a)) (s : State) (xs : List α) :
    TripOnly s (xs.foldl f s) :=
  foldl_keeps (P := TripOnly s) (fun u a h => h.trans (step u a)) xs s rfl

theorem TripOnly.postAll {s t : State} (h : TripOnly s t) (rs : List Report) : TripOnly s (t.postAll rs) := by
  have posts : TripOnly t (t.postAll rs) := by
    unfold TripOnly
    rw [postAll_joined]
  exact h.trans posts

theorem tripOnly_modTrip (s : State) (p : Pos) (f : TripState → TripState) : TripOnly s (s.modTrip p f) := rfl

theorem tripOnly_setLatch (s : State) (p : Pos) (k : LatchKind) (q : Seq) : TripOnly s (s.setLatch p k q) := by
  obtain ⟨rs, e⟩ := setLatch_eq s p k q
  rw [e]
  split
  · rfl
  · exact (tripOnly_modTrip ..).postAll rs

theorem tripOnly_record (s : State) (make : Nat → TripRecord) (bf : Bool) (q : Seq) (r : Option Nat → Report) :
    TripOnly s (s.record make bf q r) :=
  TripOnly.postAll (t := { s with trip := (s.trip.offer make bf q).unit }) rfl _

/-! ### The latches and the timing starts of a failure (R142, R145) -/

/-- The breaker-failure record of a bay (R133). -/
def bfRecord (t : TripState) : BfState × Nat × Nat × Option StartCause := (t.bf, t.remaining, t.clear, t.cause)

theorem bf_ne_idle {t : TripState} {b : BfState} {rest : Nat × Nat × Option StartCause} (h : bfRecord t = (b, rest)) (hb : b ≠ .idle) :
    t.bf ≠ .idle :=
  fun idle => hb ((congrArg Prod.fst h).symm.trans idle)

theorem bfRecord_latched (g : Settings) (k : LatchKind) (q : Seq) (t : TripState) :
    bfRecord ((t.withLatch k (Latch.setAt g q)).cancelled g fun _ => true) = bfRecord t := by
  rw [withLatch_orderless]
  rfl

/-- Setting a latch touches no breaker-failure record. -/
theorem bfRecord_setLatch (s : State) (p : Pos) (k : LatchKind) (q : Seq) (r : Pos) :
    bfRecord ((s.setLatch p k q).tripState r) = bfRecord (s.tripState r) := by
  by_cases here : r = p
  · obtain ⟨rs, e⟩ := setLatch_eq s p k q
    rw [e, here]
    split
    · rfl
    · rw [tripState_postAll, tripState_modTrip, bfRecord_latched]
  · rw [tripState_setLatch_other s k q here]

theorem bfRecord_setTrips (s : State) (ps : List Pos) (q : Seq) (r : Pos) :
    bfRecord ((s.setTrips ps q).tripState r) = bfRecord (s.tripState r) :=
  foldl_same (v := fun u : State => bfRecord (u.tripState r)) (fun u p => bfRecord_setLatch u p .trip q r) ps s

theorem active_setTrips (s : State) (ps : List Pos) (q : Seq) : (s.setTrips ps q).active = s.active :=
  foldl_same (v := State.active) (fun u p => active_setLatch u p .trip q) ps s

theorem startTiming_idle {t : TripState} (g : Settings) (c : StartCause) (h : t.bf = .idle) :
    bfRecord (t.startTiming g c) = (.timing, g.bfTime, 0, some c) := by
  rw [TripState.startTiming, if_pos h]
  rfl

theorem startTiming_busy {t : TripState} (g : Settings) (c : StartCause) (h : t.bf ≠ .idle) : t.startTiming g c = t := if_neg h

theorem startTiming_transfer (g : Settings) (c : StartCause) (t : TripState) : (t.startTiming g c).transfer = t.transfer := by
  unfold TripState.startTiming
  split <;> rfl

theorem transfer_startAll (s : State) (ps : List Pos) (c : StartCause) (r : Pos) :
    ((s.startAll ps c).tripState r).transfer = (s.tripState r).transfer := by
  refine foldl_same (v := fun u : State => (u.tripState r).transfer) (fun u p => ?_) ps s
  by_cases here : r = p
  · rw [here, tripState_modTrip, startTiming_transfer]
  · rw [tripState_modTrip_other _ here]

/-- A start leaves a bay that is not IDLE. -/
theorem tripState_startAll_busy {r : Pos} (c : StartCause) :
    ∀ (ps : List Pos) (s : State), (s.tripState r).bf ≠ .idle → (s.startAll ps c).tripState r = s.tripState r
  | [], _, _ => rfl
  | p :: ps, s, busy => by
    have left : (s.modTrip p (TripState.startTiming s.active c)).tripState r = s.tripState r := by
      by_cases here : r = p
      · rw [here] at busy ⊢
        rw [tripState_modTrip, startTiming_busy _ c busy]
      · exact tripState_modTrip_other s here _
    exact (tripState_startAll_busy c ps _ (left ▸ busy)).trans left

/-- A start on an IDLE bay of the list begins its timing, which the later starts leave. -/
theorem bfRecord_startAll {r : Pos} (c : StartCause) :
    ∀ (ps : List Pos) (s : State), r ∈ ps → (s.tripState r).bf = .idle →
      bfRecord ((s.startAll ps c).tripState r) = (.timing, s.active.bfTime, 0, some c)
  | [], _, member, _ => absurd member List.not_mem_nil
  | p :: ps, s, member, idle => by
    show bfRecord (((s.modTrip p (TripState.startTiming s.active c)).startAll ps c).tripState r) = _
    by_cases here : r = p
    · have begun : bfRecord ((s.modTrip p (TripState.startTiming s.active c)).tripState r) = (.timing, s.active.bfTime, 0, some c) := by
        rw [← here, tripState_modTrip, startTiming_idle _ c idle]
      rw [tripState_startAll_busy c ps _ (bf_ne_idle begun (by decide)), begun]
    · have left := tripState_modTrip_other s here (TripState.startTiming s.active c)
      have later : r ∈ ps := (List.mem_cons.mp member).resolve_left here
      rw [bfRecord_startAll c ps _ later (by rw [left, idle]), active_modTrip]

/-! ### The state that a failure leaves (R144 to R147) -/

/-- FAILED, with the latches of the back-trip, and a failed feeder's transfer-trip latch. -/
def failureLatched (s : State) (p : Pos) (q : Seq) : State :=
  let latched := (s.modTrip p TripState.bfFails).setTrips (backTripped s p) q
  if (s.bay p).kind = .feeder then latched.setLatch p .transferTrip q else latched

/-- The timing starts on the bays newly tripped. -/
def failureTimed (s : State) (p : Pos) (q : Seq) : State := (failureLatched s p q).startAll (backTripped s p) .backTrip

/-- BF_FAILED, with the record's id where one is made. -/
def failureReport (s : State) (p : Pos) (q : Seq) (reasons : List FailureReason) (seen : Option (PerPhase Int)) (i : Option Nat) :
    Report :=
  { subject := .bay p, detail := .bfFailed reasons seen (s.tripState p).cause (failureBays s p) q i }

/-- The trip record of a failure. -/
def failureRecord (s : State) (p : Pos) (q : Seq) (reasons : List FailureReason) (seen : Option (PerPhase Int)) (i : Nat) :
    TripRecord :=
  { id := i, cause := .breakerFailure p reasons (s.tripState p).cause, zones := (backTrip s p).flatMap EffZone.zones
    phases := phasesAbove s.active.ibf seen, sequence := q, stamp := s.clock.stamp q, bays := failureBays s p }

theorem failBreaker_eq (s : State) (p : Pos) (q : Seq) (reasons : List FailureReason) (seen : Option (PerPhase Int)) :
    s.failBreaker p q reasons seen =
      if failureBays s p = [] then (failureTimed s p q).post (failureReport s p q reasons seen none)
      else (failureTimed s p q).record (failureRecord s p q reasons seen) true q (failureReport s p q reasons seen) := by
  simp only [State.failBreaker, newlyBackTripped_eq, backTripped_eq, flowingPhases_eq, List.isEmpty_iff]
  rfl

theorem tripState_failBreaker (s : State) (p : Pos) (q : Seq) (reasons : List FailureReason) (seen : Option (PerPhase Int)) (r : Pos) :
    (s.failBreaker p q reasons seen).tripState r = (failureTimed s p q).tripState r := by
  rw [failBreaker_eq]
  split
  · rfl
  · rw [tripState_record]

theorem tripOnly_failureTimed (s : State) (p : Pos) (q : Seq) : TripOnly s (failureTimed s p q) := by
  have latched : TripOnly s ((s.modTrip p TripState.bfFails).setTrips (backTripped s p) q) :=
    (tripOnly_modTrip ..).trans (.foldl (fun u x => tripOnly_setLatch u x .trip q) ..)
  have transferred : TripOnly s (failureLatched s p q) := by
    unfold failureLatched
    split
    · exact latched.trans (tripOnly_setLatch ..)
    · exact latched
  exact transferred.trans (.foldl (fun u x => tripOnly_modTrip u x _) ..)

theorem tripOnly_failBreaker (s : State) (p : Pos) (q : Seq) (reasons : List FailureReason) (seen : Option (PerPhase Int)) :
    TripOnly s (s.failBreaker p q reasons seen) := by
  rw [failBreaker_eq]
  split
  · exact (tripOnly_failureTimed s p q).trans rfl
  · exact (tripOnly_failureTimed s p q).trans (tripOnly_record ..)

theorem bfRecord_failureLatched (s : State) (p : Pos) (q : Seq) (r : Pos) :
    bfRecord ((failureLatched s p q).tripState r) = bfRecord ((s.modTrip p TripState.bfFails).tripState r) := by
  unfold failureLatched
  split
  · rw [bfRecord_setLatch, bfRecord_setTrips]
  · rw [bfRecord_setTrips]

theorem active_failureLatched (s : State) (p : Pos) (q : Seq) : (failureLatched s p q).active = s.active := by
  unfold failureLatched
  split
  · rw [active_setLatch, active_setTrips, active_modTrip]
  · rw [active_setTrips, active_modTrip]

/-- The failed bay's own record: FAILED with its cause kept, untouched by the timing starts. -/
theorem bfRecord_failed (s : State) (p : Pos) (q : Seq) :
    bfRecord ((failureTimed s p q).tripState p) = (.failed, 0, 0, (s.tripState p).cause) := by
  have failed : bfRecord ((failureLatched s p q).tripState p) = (.failed, 0, 0, (s.tripState p).cause) := by
    rw [bfRecord_failureLatched, tripState_modTrip]
    rfl
  rw [failureTimed, tripState_startAll_busy .backTrip _ _ (bf_ne_idle failed (by decide)), failed]

/-- A failed feeder holds its transfer-trip latch. -/
theorem transfer_failed {s : State} {p : Pos} (q : Seq) (feeder : (s.bay p).kind = .feeder) :
    ((failureTimed s p q).tripState p).transfer.set = true := by
  rw [failureTimed, transfer_startAll, failureLatched, if_pos feeder]
  exact set_setLatch _ p .transferTrip q

/-- Every bay connected to a zone of the back-trip holds its trip latch: it held it, or the back-trip set it. -/
theorem trip_failed {s : State} {p x : Pos} {z : EffZone} (q : Seq) (zone : z ∈ backTrip s p)
    (connected : x ∈ connectedBays s.bays z.zones) : ((failureTimed s p q).tripState x).trip.set = true := by
  have tripped : (((s.modTrip p TripState.bfFails).setTrips (backTripped s p) q).tripState x).trip.set = true := by
    by_cases held : (s.tripState x).trip.set = true
    · refine tripSet_setTrips _ q _ x ?_
      by_cases here : x = p
      · rw [← here, tripState_modTrip]
        exact held
      · rw [tripState_modTrip_other s here]
        exact held
    · exact set_setTrips q _ _ x (mem_backTripped.mpr ⟨⟨z, zone, connected⟩, Bool.eq_false_iff.mpr held⟩)
  rw [failureTimed, trip_startAll, failureLatched]
  split
  · exact tripSet_setLatch _ p .transferTrip q x tripped
  · exact tripped

theorem tripState_failed_other {s : State} {p x : Pos} (q : Seq) (other : x ≠ p) (outside : x ∉ backTripped s p) :
    (failureTimed s p q).tripState x = s.tripState x := by
  have latched : ((s.modTrip p TripState.bfFails).setTrips (backTripped s p) q).tripState x = s.tripState x := by
    rw [tripState_setTrips_other q outside, tripState_modTrip_other s other]
  rw [failureTimed, tripState_startAll_other _ outside, failureLatched]
  split
  · rw [tripState_setLatch_other _ _ q other, latched]
  · exact latched

/-- Timing starts on a newly tripped bay that is IDLE. -/
theorem bfRecord_backTripped {s : State} {p x : Pos} (q : Seq) (tripped : x ∈ backTripped s p) (other : x ≠ p)
    (idle : (s.tripState x).bf = .idle) :
    bfRecord ((failureTimed s p q).tripState x) = (.timing, s.active.bfTime, 0, some .backTrip) := by
  have before : bfRecord ((failureLatched s p q).tripState x) = bfRecord (s.tripState x) := by
    rw [bfRecord_failureLatched, tripState_modTrip_other s other]
  have still : ((failureLatched s p q).tripState x).bf = .idle := (congrArg Prod.fst before).trans idle
  rw [failureTimed, bfRecord_startAll .backTrip _ _ tripped still, active_failureLatched]

/-! ### BF_CLEARED, BF_EXPIRY (R143, R144; log entry 3) -/

theorem advances_iff (s : State) (p : Pos) :
    s.advances p = true ↔ s.controller.protection = .running ∧ (s.tripState p).bf = .timing := by
  simp only [State.advances, TripState.timing, Bool.and_eq_true, beq_iff_eq]

theorem exec_bfCleared {s : State} {p : Pos} (on : powered s) (running : s.controller.protection = .running)
    (timing : (s.tripState p).bf = .timing) (opened : (s.bay p).effective .breaker = .opened) (once : 1 ≤ (s.tripState p).clear) :
    exec (.bfCleared p) s = .next (s.modTrip p TripState.bfIdle) := by
  have clears : (s.advances p && !(s.bay p).shut .breaker && decide (1 ≤ (s.tripState p).clear)) = true := by
    rw [(advances_iff s p).mpr ⟨running, timing⟩, (not_shut_iff ..).mpr opened, decide_eq_true once]
    rfl
  simp only [exec, execBfCleared, event_on on, if_pos clears]

theorem exec_bfExpiry {s : State} {p : Pos} {seen : Option (PerPhase Int)} (on : powered s)
    (running : s.controller.protection = .running) (timing : (s.tripState p).bf = .timing)
    (judged : (s.tripState p).clear = 0 ∨ reasonsFailed s p seen ≠ []) (last : (s.tripState p).remaining = 1) :
    exec (.bfExpiry p seen) s = .next (s.expire p s.releaseUnit.next seen) := by
  have once : s.clearAfter p seen < 2 := by
    rw [clearAfter_eq]
    rcases judged with zero | shown
    · split <;> omega
    · rw [if_neg shown]
      decide
  have expires : (s.advances p && decide (s.clearAfter p seen < 2) && decide ((s.tripState p).remaining ≤ 1)) = true := by
    rw [(advances_iff s p).mpr ⟨running, timing⟩, decide_eq_true once, decide_eq_true (Nat.le_of_eq last)]
    rfl
  simp only [exec, execBfExpiry, event_on on, if_pos expires]
  rfl

/-- Settles O55: a release by the clear count, a judgement by whether a reason holds, the frame of a failure, and the two rows. -/
theorem breakerFailureTimingEnds : Obligations.BreakerFailureTimingEnds := by
  refine ⟨fun s p q seen => ?release, fun s p q seen => ⟨expire_cleared q, fun fails => ?failure⟩,
    fun p s on running timing => ⟨exec_bfCleared on running timing, fun _ => exec_bfExpiry on running timing⟩⟩
  case release =>
    rw [State.advanceBay, clearAfter_eq]
    rfl
  case failure =>
    have record := bfRecord_failed s p q
    simp only [bfRecord, Prod.mk.injEq] at record
    obtain ⟨failed, noTime, noClear, cause⟩ := record
    simp only [expire_failed q fails, tripState_failBreaker]
    refine ⟨failBreaker_eq .., tripOnly_failBreaker .., failed, noTime, noClear, cause, transfer_failed q,
      fun z zone x => trip_failed q zone, fun x => tripState_failed_other q, fun x tripped other idle => ?started⟩
    have started := bfRecord_backTripped q tripped other idle
    simp only [bfRecord, Prod.mk.injEq] at started
    obtain ⟨timing, remaining, _, start⟩ := started
    exact ⟨timing, remaining, start⟩

end Sys2Proof.Proofs
end

section
/-! PROOFS. The Settings Store's requests: STAGE_SETTINGS with its validation (O58), and SWITCH_SETTINGS with both options (O59). -/

namespace Sys2Proof.Proofs

open Sys2Proof Sys2Proof.Machine Sys2Proof.Claims

/-! ### Validation (R155, R157) -/

theorem within_false_iff (lo hi n : Nat) : within lo hi n = false ↔ n < lo ∨ hi < n := by
  rw [within, Bool.and_eq_false_iff, decide_eq_false_iff_not, decide_eq_false_iff_not, Nat.not_le, Nat.not_le]

/-- A field breaks its row of the table of R155: it is outside its own range, or outside what the fields it depends on allow. -/
def breaks (g : Settings) : SettingsField → Prop
  | .idmin => g.idmin < 100 ∨ 10000 < g.idmin
  | .slope => g.slope < 16 ∨ 56 < g.slope
  | .slopeX => g.slopeX < g.slope ∨ 62 < g.slopeX
  | .w => g.w ≠ 8 ∧ g.w ≠ 16
  | .m => g.m < 2 ∨ g.w < g.m
  | .czIdmin => g.czIdmin < 100 ∨ 10000 < g.czIdmin
  | .czSlope => g.czSlope < 8 ∨ 48 < g.czSlope
  | .czM => g.czM < 2 ∨ g.w < g.czM
  | .onsetStep => g.onsetStep < 200 ∨ 20000 < g.onsetStep
  | .onsetSpan => g.onsetSpan < 2 ∨ 12 < g.onsetSpan
  | .irreset => g.irreset < 100 ∨ 5000 < g.irreset ∨ g.onsetStep ≤ g.irreset
  | .quietSpan => g.quietSpan < 24 ∨ 4800 < g.quietSpan
  | .ctsLevel => g.ctsLevel < 20 ∨ 2000 < g.ctsLevel ∨ g.idmin ≤ g.ctsLevel ∨ g.czIdmin ≤ g.ctsLevel
  | .ctsSpan => g.ctsSpan < 240 ∨ 24000 < g.ctsSpan
  | .ibf => g.ibf < 50 ∨ 5000 < g.ibf
  | .bfTime => g.bfTime < 24 ∨ 1200 < g.bfTime
  | .openDebounce => g.openDebounce < 1 ∨ 240 < g.openDebounce
  | .travelLimit => g.travelLimit < 240 ∨ 48000 < g.travelLimit
  | .echoSpan => g.echoSpan < 4 ∨ 240 < g.echoSpan

/-- The model's check of a field is the table's row: by W's two values, the two fields with a further bound, and a range alone. -/
theorem fieldValid_false_iff (g : Settings) (f : SettingsField) : g.fieldValid f = false ↔ breaks g f := by
  cases f with
  | w => simp only [Settings.fieldValid, breaks, Bool.or_eq_false_iff, beq_eq_false_iff_ne]
  | irreset | ctsLevel =>
    simp only [Settings.fieldValid, breaks, Bool.and_eq_false_iff, within_false_iff, decide_eq_false_iff_not, Nat.not_lt,
      or_assoc]
  | _ => exact within_false_iff ..

/-- The first of a list that a check refuses is its head, or else the first of the rest. -/
theorem find?_refused_cons {α : Type} (ok : α → Bool) (a : α) (as : List α) :
    ((a :: as).find? fun x => !ok x) = if ok a = false then some a else as.find? fun x => !ok x := by
  cases h : ok a <;> simp [h]

/-! ### STAGE_SETTINGS (R156) -/

theorem settingsOf_toList (g : Settings) : settingsOf (g.toList.map Prod.snd) = some g := rfl

theorem settingsOf_none {vs : List Nat} (h : vs.length ≠ 19) : settingsOf vs = none := by
  unfold settingsOf
  split
  · exact absurd rfl h
  · rfl

theorem askStageSettings_length {vs : List Nat} (s : State) (h : vs.length ≠ 19) : askStageSettings vs s = s.answer .badLength := by
  rw [askStageSettings, settingsOf_none h]

theorem valid_iff (g : Settings) : g.valid = true ↔ g.firstInvalid = none := Option.isNone_iff_eq_none

/-- STAGE_SETTINGS of a whole group: refused while a switch is pending, otherwise staged and judged. -/
theorem handed_stageSettings (g : Settings) (s : State) :
    handed (askStageSettings (g.toList.map Prod.snd) s) =
      if s.settings.switchPending then answered s .pending (.staged none s.settings.stagedValid s.settings.firstInvalid)
      else
        answered { s with settings := s.settings.stage g } (if g.firstInvalid = none then .ok else .badValue)
          (.staged g.firstInvalid g.valid g.firstInvalid) := by
  simp only [askStageSettings, settingsOf_toList, handed_ite, handed_answer, valid_iff]

/-- Settles O58: the table of R155 searched field by field, and the request by its length and by whether a switch is pending. -/
theorem stageSettingsValidates : Obligations.StageSettingsValidates := by
  refine ⟨fun g => ?table, fun vs s h => ⟨fun len => request_answers h (askStageSettings_length s len), ?group⟩⟩
  case table =>
    simp only [Settings.firstInvalid, Settings.toList, List.map_cons, List.map_nil, find?_refused_cons, List.find?_nil,
      fieldValid_false_iff, breaks]
  case group =>
    rintro g rfl
    exact (request_handed h).trans (congrArg Host.Outcome.next (handed_stageSettings g s))

/-! ### SWITCH_SETTINGS (R158, R160, R161) -/

theorem handed_switchSettings (s : State) :
    handed (askSwitchSettings s) =
      if s.settings.switchPending then answered s .pending
      else if s.settings.stagedValid = false then answered s .noStaged
      else if s.controller.protection = .running then
        answered { s with settings := { s.settings with switchPending := true, passed := 0, lastReason := none } } .accepted
      else answered (s.exchange .request) .ok := by
  simp only [askSwitchSettings, handed_ite, handed_answer, Bool.not_eq_true']

/-- After a cancel no switch is pending, whether one was or not. -/
theorem switchPending_unpend (t : SettingsStore) : t.unpend.switchPending = false := by
  unfold SettingsStore.unpend
  split
  case isTrue => rfl
  case isFalse clear => exact Bool.eq_false_of_not_eq_true clear

/-- Settles O59: the checks in order with cancel no, and with cancel yes the store with nothing pending. -/
theorem switchSettingsExchangesOrWaits : Obligations.SwitchSettingsExchangesOrWaits := by
  refine fun s h => ⟨?switch, request_answers h ?cancel⟩
  case switch => exact (request_handed h).trans (congrArg Host.Outcome.next (handed_switchSettings s))
  case cancel =>
    rw [askSwitchSettingsCancel, switchPending_unpend]
    rfl

end Sys2Proof.Proofs
end

section
/-! PROOFS. The Protection Controller: SET_STATION (O15), START_PROTECTION (O16), the two ends of a start (O17) and STOP_PROTECTION (O18). -/

namespace Sys2Proof.Proofs

open Sys2Proof Sys2Proof.Machine Sys2Proof.Claims

/-! ### The bus zones after SECTIONS is written (R23) -/

theorem existing_contains_a2 (r : ZoneReplica) : r.existing.contains .a2 = r.busZones.any fun z => z.zone == .a2 := by
  simp only [ZoneReplica.existing, List.contains_eq_any_beq, List.any_map, Function.comp_def, BEq.comm (a := BusZone.a2)]

/-- The bus zones that stay where SECTIONS becomes 1. -/
theorem filter_sectionOne (zs : List BusZoneRecord) :
    (zs.filter fun z => z.zone == .a1 || z.zone == .b1) = zs.filter fun z => decide (z.zone = .a1 ∨ z.zone = .b1) :=
  List.filter_congr fun _ _ => (Bool.decide_or ..).symm

theorem withSections_same {r : ZoneReplica} {two : Bool} (h : two = r.busZones.any fun z => z.zone == .a2) :
    r.withSections two = r := by
  rw [ZoneReplica.withSections, existing_contains_a2, ← h, beq_self_eq_true, if_pos rfl]

theorem withSections_changed {r : ZoneReplica} {two : Bool} (h : two ≠ r.busZones.any fun z => z.zone == .a2) :
    r.withSections two =
      { r with
        recompute := true
        busZones :=
          if two then r.busZones ++ [.fresh .a2, .fresh .b2]
          else r.busZones.filter fun z => decide (z.zone = .a1 ∨ z.zone = .b1) } := by
  rw [ZoneReplica.withSections, existing_contains_a2, if_neg (mt beq_iff_eq.mp h), filter_sectionOne]

/-! ### The bays that a station of one section has no place for (R165) -/

theorem needsTwo_iff (b : BayRecord) :
    b.needsTwo = true ↔ b.configured = true ∧ (b.kind = .sectionBay ∨ (b.kind ≠ .sectionBay ∧ b.sectionNo = .two)) := by
  simp only [BayRecord.needsTwo, Bool.and_eq_true, Bool.or_eq_true, beq_iff_eq, ne_eq, or_and_left, em, true_and]

theorem misplaced_none (s : State) : s.misplaced = none ↔ ∀ p, ¬ (s.bay p).needsTwo = true := by
  simp only [State.misplaced, List.find?_eq_none, mem_allPos, true_implies]

theorem misplaced_some {s : State} {p : Pos} (h : s.misplaced = some p) :
    (s.bay p).needsTwo = true ∧ ∀ q, q < p → ¬ (s.bay q).needsTwo = true := by
  obtain ⟨here, below⟩ := find_allPos.mp h
  exact ⟨here, fun q hq => by rw [below q hq]; exact Bool.false_ne_true⟩

/-! ### SET_STATION (R165) -/

/-- The station parameters that the four operands name. -/
def stationRead (f d m x : Nat) : Station :=
  { frequency := if f = 60 then .hz60 else .hz50, depth := d, markRequired := m == 1, twoSections := x == 2 }

theorem frequencyOf_none {f : Nat} (h : f ≠ 50 ∧ f ≠ 60) : frequencyOf f = none := by
  unfold frequencyOf
  split
  · exact absurd rfl h.1
  · exact absurd rfl h.2
  · rfl

theorem frequencyOf_some {f : Nat} (h : ¬ (f ≠ 50 ∧ f ≠ 60)) : frequencyOf f = some (if f = 60 then .hz60 else .hz50) := by
  obtain rfl | rfl : f = 50 ∨ f = 60 := by omega
  · rfl
  · rfl

/-- The first check of SET_STATION, parameter by parameter (log entry 15). -/
theorem stationOf_eq (f d m x : Nat) :
    stationOf f d m x =
      if f ≠ 50 ∧ f ≠ 60 then .error .frequency
      else if d < 2 ∨ 12 < d then .error .depth
      else if 1 < m then .error .markRequired
      else if x ≠ 1 ∧ x ≠ 2 then .error .sections
      else .ok (stationRead f d m x) := by
  unfold stationOf
  by_cases hf : f ≠ 50 ∧ f ≠ 60
  · rw [if_pos hf, frequencyOf_none hf]
  rw [if_neg hf, frequencyOf_some hf]
  by_cases hd : d < 2 ∨ 12 < d
  · simp only [if_pos hd]
  simp only [if_neg hd]
  by_cases hm : 1 < m
  · rw [if_pos hm, yesNo_none hm]
  rw [if_neg hm, yesNo_some (Nat.le_of_not_lt hm)]
  by_cases hx : x ≠ 1 ∧ x ≠ 2
  · simp only [if_pos hx, sectionOf_none hx.1 hx.2]
  obtain rfl | rfl : x = 1 ∨ x = 2 := by omega
  · rfl
  · rfl

theorem allClosed_false_iff (s : State) : s.allClosed = false ↔ s.links.any (fun l => l.state.transmits) = true := by
  rw [State.allClosed, Bool.not_eq_false']

/-- What SET_STATION answers to the parameters as read, and to the first one that cannot be read. -/
def stationAnswer (s : State) : Except FieldName Station → Answer
  | .error f => s.badField f
  | .ok t =>
    if s.controller.protection ≠ .halted ∨ s.links.any (fun l => l.state.transmits) = true then s.answer .badState
    else match (if t.twoSections then none else s.misplaced) with
      | some p => s.answer .conflict (.misplaced p)
      | none => (s.setStation t).answer .ok (.station t)

theorem askSetStation_eq (f d m x : Nat) (s : State) : askSetStation f d m x s = stationAnswer s (stationOf f d m x) := by
  unfold askSetStation
  cases stationOf f d m x with
  | error _ => rfl
  | ok t => exact if_congr (or_congr Iff.rfl (allClosed_false_iff s)) rfl rfl

/-- SECTIONS is 1 or 2, so the search for a bay out of place is made exactly where it is 1. -/
theorem handed_stationAnswer {f d m x : Nat} (s : State) (h : ¬ (x ≠ 1 ∧ x ≠ 2)) :
    handed (stationAnswer s (.ok (stationRead f d m x))) =
      if s.controller.protection ≠ .halted ∨ s.links.any (fun l => l.state.transmits) = true then answered s .badState
      else match (if x = 1 then s.misplaced else none) with
        | some p => answered s .conflict (.misplaced p)
        | none => answered (s.setStation (stationRead f d m x)) .ok (.station (stationRead f d m x)) := by
  have sought : (if (stationRead f d m x).twoSections then none else s.misplaced) = if x = 1 then s.misplaced else none := by
    obtain rfl | rfl : x = 1 ∨ x = 2 := by omega
    · rfl
    · rfl
  rw [stationAnswer, handed_ite, sought]
  cases (if x = 1 then s.misplaced else none) <;> rfl

/-- Settles O15: the bus zones by whether SECTIONS changes, the bay out of place as the lowest of its kind, and the checks in
order. -/
theorem setStationWritesFour : Obligations.SetStationWritesFour := by
  refine ⟨fun r two => ?zones, fun s => ?bays, fun f d m x s h => (request_handed h).trans ?request⟩
  case zones =>
    by_cases same : two = r.busZones.any fun z => z.zone == .a2
    · rw [withSections_same same, if_pos same]
    · rw [withSections_changed same, if_neg same]
      cases two <;> rfl
  case bays =>
    simp only [← needsTwo_iff]
    exact ⟨misplaced_none s, fun p => misplaced_some⟩
  case request =>
    rw [askSetStation_eq, stationOf_eq]
    simp only [apply_ite (stationAnswer s), handed_ite]
    refine congrArg Host.Outcome.next (if_congr Iff.rfl rfl (if_congr Iff.rfl rfl (if_congr Iff.rfl rfl ?_)))
    by_cases hx : x ≠ 1 ∧ x ≠ 2
    · rw [if_pos hx, if_pos hx]
      rfl
    · rw [if_neg hx, if_neg hx]
      exact handed_stationAnswer s hx

/-! ### START_PROTECTION (R166, R167) -/

theorem hasFeeder_eq (s : State) :
    s.hasFeeder = s.bays.any fun b => b.configured && b.service == .inService && b.kind == .feeder := by
  simp only [State.hasFeeder, BayRecord.liveFeeder, BayRecord.inService, Bool.and_assoc]

/-- The test of the start condition ends in STARTING or RUNNING. -/
theorem testStart_not_halted {s : State} (h : s.controller.protection = .starting) :
    s.testStart.controller.protection ≠ .halted := by
  unfold State.testStart
  split
  · exact Protection.noConfusion
  · rw [h]; exact Protection.noConfusion

/-- A start begun from HALTED changes the protection state, so the due releases are made (R53, R166). -/
theorem settleAfter_beginStart {s : State} (e : Nat) (h : s.controller.protection = .halted) :
    State.settleAfter s (s.beginStart e).testStart =
      (if (s.beginStart e).startCondition then (s.beginStart e).succeedStart else s.beginStart e).settle := by
  refine (if_neg ?_).trans rfl
  rw [h]
  exact testStart_not_halted rfl

theorem handed_start {s : State} (e : Nat) (h : s.controller.protection = .halted) :
    handed (s.start e) =
      if s.hasFeeder = true then
        answered (if (s.beginStart e).startCondition then (s.beginStart e).succeedStart else s.beginStart e).settle .accepted
          (.deviceOp .begun)
      else answered s.startWithoutFeeder .accepted (.deviceOp s.startWithoutFeeder.controller.op) := by
  rw [State.start, handed_ite, settleAfter_beginStart e h]
  rfl

/-- Settles O16: the two checks, and the start by whether a feeder is IN_SERVICE. -/
theorem startProtectionBegins : Obligations.StartProtectionBegins := by
  intro e s h
  refine (request_handed h).trans (congrArg Host.Outcome.next ?_)
  rw [askStartProtection, handed_ite, handed_ite, ← hasFeeder_eq]
  refine if_congr Iff.rfl rfl ?_
  by_cases halted : s.controller.protection = .halted
  · rw [if_neg (not_not_intro halted), if_neg (not_not_intro halted), handed_start e halted]
    rfl
  · rw [if_pos halted, if_pos halted]
    rfl

/-! ### The two ends of a start (R167, R168) -/

theorem exec_startSuccess {s : State} (h : powered s) (holds : s.startHolds = true) :
    exec .startSuccess s = .next s.succeedStart.settle :=
  (event_on h).trans (congrArg Host.Outcome.next (if_pos holds))

theorem exec_startTimeout {s : State} (h : powered s) (out : s.startRunsOut = true) :
    exec .startTimeout s = .next s.failStart.settle :=
  (event_on h).trans (congrArg Host.Outcome.next (if_pos out))

theorem startRunsOut_last {s : State} (h : s.controller.protection = .starting) (last : s.controller.waitTimer = some 1) :
    s.startRunsOut = true := by
  rw [State.startRunsOut, h, last]
  rfl

/-- Settles O17: each row where its condition holds, the start's end being the state it leaves with OP_DONE posted. -/
theorem startEnds : Obligations.StartEnds := by
  refine fun s h starting => ⟨fun active locked => ?success, fun last => ?timeout⟩
  case success =>
    rw [exec_startSuccess h ((startHolds_iff s).mpr ⟨starting, active, locked⟩), succeedStart_eq]
    rfl
  case timeout =>
    rw [exec_startTimeout h (startRunsOut_last starting last), failStart_eq]
    rfl

/-! ### STOP_PROTECTION (R168, R169) -/

theorem stop_halted {s : State} (h : s.controller.protection = .halted) : s.stop = s.answer .badState := by
  rw [State.stop, h]

theorem stop_starting {s : State} (h : s.controller.protection = .starting) : s.stop = s.abortStart.settle.answer .ok := by
  rw [State.stop, h]

/-- In RUNNING a bay TIMING is looked at before a latch, and a stop that neither refuses is made (R169). -/
theorem handed_stop_running {s : State} (h : s.controller.protection = .running) :
    handed s.stop =
      if s.anyTiming = true then answered s .bfRunning
      else if s.anyLatch = true then answered s .tripLatched
      else answered s.stopRunning.settle .ok := by
  rw [State.stop, h]
  simp only [State.stopRefusal]
  by_cases timing : s.anyTiming = true
  · simp only [if_pos timing]; rfl
  by_cases latched : s.anyLatch = true
  · simp only [if_neg timing, if_pos latched]; rfl
  · simp only [if_neg timing, if_neg latched]; rfl

/-- Settles O18, by the protection state. -/
theorem stopProtectionByState : Obligations.StopProtectionByState := by
  refine fun s h => ⟨fun halted => ?halted, fun starting => ?starting, fun running => ?running⟩
  case halted => exact request_answers h (stop_halted halted)
  case starting => exact request_answers h (stop_starting starting)
  case running => exact (request_handed h).trans (congrArg Host.Outcome.next (handed_stop_running running))

end Sys2Proof.Proofs
end

section
/-! PROOFS. The resets (O6), REPLY_SENT with the transmitter (O13), and RESTART with the warm restart (O19). -/

namespace Sys2Proof.Proofs

open Sys2Proof Sys2Proof.Machine Sys2Proof.Claims

/-! ### RESETn (R172) -/

/-- While RESETn is low a host request and an event alike leave the state (log entry 21). -/
theorem exec_inReset {c : Instr} {s : State} (low : s.pins.inReset = true) (notPowerOn : ∀ a b, c ≠ .powerOnReset a b)
    (notReset : c ≠ .resetnAsserted) : exec c s = .next s := by
  cases c with simp only [exec]
  | powerOnReset a b => exact absurd rfl (notPowerOn a b)
  | resetnAsserted => exact absurd rfl notReset
  | identify | fetchNotices | setStation | startProtection | stopProtection | restart | queryOperation
  | configureBay | setService | override | readBay
  | blockZone | unblockZone | readZone | readClock
  | openLink | closeLink | readLink | reallocate
  | stageSettings | switchSettings | switchSettingsCancel | readSettings
  | sendOrder | resetTrip | readRecord | releaseRecord => exact request_off low
  | warmRestart
  | messageFrameReceived | messageGap | replySent | messageFrameStart | stopBitMissing | bodyLengthExcess
  | sampleBoundary | mark | missingCountRise | markTimeout
  | frameArrival | wakeBringUp | linkActive | recoveryActive | bringUpFailed | bringUpTimeout | lockTimeout | linkLost
  | release | replicaOpen | isolatorStuck | breakerStuck | dataLost | dataRestored
  | spanEnd | evolvingFault | returnToQuiet | ctSupervision
  | bfCleared | bfExpiry | drainComplete | settingsSwitched | tripUnconfirmed | orderDone | orderTimeout
  | startSuccess | startTimeout => exact event_off low

theorem lineRate_eq (a b : Bool) :
    Pins.lineRate a b = if a then (if b then 2000000 else 921600) else (if b then 460800 else 115200) := by
  cases a <;> cases b <;> rfl

theorem exec_powerOnReset (a b : Bool) (s : State) :
    exec (.powerOnReset a b) s = .next (State.powerOn a b s.pending) := rfl

/-- Settles O6: RESETN_ASSERTED and POWER_ON_RESET as the blocks' reset values have them, any other command by its gate. -/
theorem resetnAndPowerOnReset : Obligations.ResetnAndPowerOnReset := by
  refine ⟨fun _ => rfl, fun c s => exec_inReset, fun a b s => ?powerOn⟩
  case powerOn =>
    rw [exec_powerOnReset, State.powerOn, Port.reset, lineRate_eq]
    rfl

/-! ### REPLY_SENT, and what the free transmitter takes next (R171, R174) -/

/-- The current place emptied: the held request, if any, moves into it and goes into work (R174). -/
theorem workHeld_emptyCurrent (s : State) :
    s.emptyCurrent.workHeld =
      match s.port.held with
      | none => { s with port := { s.port with current := none } }
      | some r => State.takeIntoWork { s with port := { s.port with current := none, held := none } } r := by
  rw [State.workHeld, show s.emptyCurrent.port.held = s.port.held from rfl]
  cases s.port.held <;> rfl

theorem finishReply_eq (s : State) :
    s.finishReply =
      match s.port.current with
      | none => s
      | some c =>
        if c.restarts then
          { s with
            controller := { s.controller with restartPending := true }
            port := { s.port with current := some { c with phase := .restarting } } }
        else match s.port.held with
          | none => { s with port := { s.port with current := none } }
          | some r => State.takeIntoWork { s with port := { s.port with current := none, held := none } } r := by
  unfold State.finishReply
  cases s.port.current with
  | none => rfl
  | some c => exact if_congr Iff.rfl rfl (workHeld_emptyCurrent s)

theorem exec_replySent_idle {s : State} (h : powered s) (idle : s.port.sending = none) : exec .replySent s = .next s := by
  simp only [exec, execReplySent, event_on h, idle]

theorem exec_replySent_sending {s : State} {x : Sending} (h : powered s) (sending : s.port.sending = some x) :
    exec .replySent s = .next (State.transmit
      (if x.portBusy then { s with port := { s.port with sending := none } }
       else State.finishReply { s with port := { s.port with sending := none } })) := by
  simp only [exec, execReplySent, event_on h, sending]

theorem transmit_sending {q : Port} (h : q.sending ≠ none) : q.transmit = q := by
  obtain ⟨x, hx⟩ := Option.ne_none_iff_exists'.mp h
  rw [Port.transmit, hx]

theorem transmit_waitingBusy {q : Port} {r : RawRequest} (free : q.sending = none) (waits : q.waitingBusy = some r) :
    q.transmit =
      { q with sending := some { portBusy := true, bytes := replyFrame r (.bare .portBusy) }, waitingBusy := none } := by
  rw [Port.transmit, free, waits]

theorem transmit_replyMade {q : Port} {c : Place} (free : q.sending = none) (waits : q.waitingBusy = none)
    (work : q.current = some c) (made : c.phase = .replyMade) :
    q.transmit = { q with sending := some { portBusy := false, bytes := c.reply }, current := some { c with phase := .sending } } := by
  simp only [Port.transmit, free, waits, work, made, if_true]

/-- Settles O13: the end of a reply by what was being sent and whose it was, then the transmitter's choice. -/
theorem replySentFreesItsPlace : Obligations.ReplySentFreesItsPlace := by
  refine ⟨fun s h => ?sent, fun q => ⟨transmit_sending, fun r => transmit_waitingBusy, fun c => transmit_replyMade⟩⟩
  case sent =>
    cases sending : s.port.sending with
    | none => exact exec_replySent_idle h sending
    | some x =>
      rw [exec_replySent_sending h sending]
      exact congrArg Host.Outcome.next (congrArg State.transmit (if_congr Iff.rfl rfl (finishReply_eq _)))

/-! ### What a restart keeps no trace of (R171)

Step 1 of a warm restart, the end of every BUSY operation, touches only what steps 2 to 4 then write. -/

theorem restartBlocks_modLink (s : State) (p : Pos) (f : LinkRecord → LinkRecord) :
    (s.modLink p f).restartBlocks = s.restartBlocks := rfl

theorem restartBlocks_modPool (s : State) (p : Pos) (f : LinkPool → LinkPool) :
    (s.modPool p f).restartBlocks = s.restartBlocks := rfl

theorem restarted_join (q : Port) (n : Notice) : (q.join n).restarted = q.restarted := by
  unfold Port.join
  split <;> rfl

theorem restartBlocks_post (s : State) (r : Report) : (s.post r).restartBlocks = s.restartBlocks :=
  congrArg (fun q => { s.restartBlocks with port := q }) (restarted_join ..)

theorem restartBlocks_endLinkOp (s : State) (p : Pos) (r : LinkResult) : (s.endLinkOp p r).restartBlocks = s.restartBlocks :=
  (restartBlocks_post ..).trans (restartBlocks_modLink ..)

theorem restartBlocks_abortLinkOp (s : State) (p : Pos) : (s.abortLinkOp p).restartBlocks = s.restartBlocks := by
  unfold State.abortLinkOp
  split
  · split
    · exact (restartBlocks_endLinkOp ..).trans (restartBlocks_modPool ..)
    · exact (restartBlocks_endLinkOp ..).trans (restartBlocks_modLink ..)
  · rfl

theorem restartBlocks_abortStart (s : State) : s.abortStart.restartBlocks = s.restartBlocks := restartBlocks_post ..

theorem restartBlocks_abortAll (s : State) : s.abortAll.restartBlocks = s.restartBlocks := by
  have links : (allPos.foldl State.abortLinkOp s).restartBlocks = s.restartBlocks :=
    foldl_same restartBlocks_abortLinkOp allPos s
  unfold State.abortAll
  dsimp only
  split
  · exact (restartBlocks_abortStart _).trans links
  · exact links

theorem exec_warmRestart {s : State} (h : powered s) : exec .warmRestart s = .next s.restartBlocks.endRestart := by
  refine (event_on h).trans (congrArg Host.Outcome.next ?_)
  rw [State.restart, State.warmRestart, restartBlocks_abortAll]

/-! ### The RESTART request ends after the restart (R171, R174) -/

theorem endRestart_stands {t : State} (h : ∀ c, t.port.current = some c → c.phase ≠ .restarting) : t.endRestart = t := by
  unfold State.endRestart
  split
  · rfl
  next c work => exact if_neg (h c work)

theorem endRestart_restarting {t : State} {c : Place} (work : t.port.current = some c) (restarting : c.phase = .restarting) :
    t.endRestart = t.emptyCurrent.workHeld.transmit := by
  simp only [State.endRestart, work, restarting, if_true]

/-- Settles O19: RESTART by its answer, WARM_RESTART by the blocks' restart values, which keep no trace of the operations it aborts,
and the RESTART request's end by what stands in the current place. -/
theorem restartThenWarmRestart : Obligations.RestartThenWarmRestart := by
  refine ⟨fun s h => request_answers h rfl, fun s h => exec_warmRestart h, fun t => ⟨endRestart_stands, fun c work restarting => ?_⟩⟩
  exact (endRestart_restarting work restarting).trans (congrArg State.transmit (workHeld_emptyCurrent t))

end Sys2Proof.Proofs
end

section
/-! PROOFS. The Message Port: IDENTIFY (O7), the receiver's events (O9), a complete frame's place (O10), a request in work and its reply
frame (O11). -/

namespace Sys2Proof.Proofs

open Sys2Proof Sys2Proof.Machine Sys2Proof.Claims

/-! ### IDENTIFY (R179) -/

theorem askIdentify_keep (s : State) : askIdentify 0 s = s.answer .ok s.identityFields := rfl

/-- With yes the counters are cleared after the reply's values have been taken. -/
theorem askIdentify_clear (s : State) :
    askIdentify 1 s = State.answer { s with port := s.port.clearCounters } .ok s.identityFields := rfl

theorem askIdentify_outside {clear : Nat} (s : State) (h : 1 < clear) : askIdentify clear s = s.answer .badValue := by
  rw [askIdentify, yesNo_none h]

/-- Settles O7, by the operand: no, yes, or a value outside the list. -/
theorem identifyRepliesAndClears : Obligations.IdentifyRepliesAndClears := by
  intro clear s h
  match clear with
  | 0 => exact request_answers h (askIdentify_keep s)
  | 1 => exact request_answers h (askIdentify_clear s)
  | n + 2 =>
    rw [if_neg (by omega)]
    exact request_answers h (askIdentify_outside s (by omega))

/-! ### The receiver's events (R173) -/

/-- Hunting, the receiver is inside a frame after the lead byte and after no other. -/
theorem examine_of_hunting {q : Port} (hunting : q.inside = false) (b : Option Byte) :
    q.examine b = { q with inside := decide (b = some 0x5B#8) } := by
  by_cases lead : b = some 0x5B#8
  · rw [Port.examine, if_pos lead, decide_eq_true lead]
  · rw [Port.examine, if_neg lead, decide_eq_false lead, ← hunting]

theorem exec_messageFrameStart {s : State} (h : powered s) :
    exec .messageFrameStart s = .next { s with port := { s.port with inside := true } } := by
  rw [exec, execMessageFrameStart, event_on h]
  rfl

theorem exec_stopBitMissing {s : State} (h : powered s) :
    exec .stopBitMissing s = .next
      (if s.port.inside then { s with port := { s.port with inside := false, framing := upTo16 s.port.framing } } else s) :=
  event_on h

theorem exec_bodyLengthExcess {n : Nat} {s : State} (h : powered s) (long : 600 < n) :
    exec (.bodyLengthExcess n) s = .next
      (if s.port.inside then { s with port := { s.port with inside := false, length := upTo16 s.port.length } } else s) := by
  have test : (s.port.inside && decide (Config.maxBody < n)) = s.port.inside := by
    rw [decide_eq_true (show Config.maxBody < n from long), Bool.and_true]
  refine (event_on h).trans ?_
  dsimp only
  rw [test]
  rfl

theorem exec_messageGap (next : Option Byte) {s : State} (h : powered s) :
    exec (.messageGap next) s = .next
      (if s.port.inside then
        { s with port := { s.port with inside := decide (next = some 0x5B#8), gap := upTo16 s.port.gap } }
       else s) := by
  refine (event_on h).trans ?_
  dsimp only
  rw [examine_of_hunting rfl]
  rfl

/-- Settles O9, event by event. -/
theorem receiverEvents : Obligations.ReceiverEvents := fun _ h =>
  ⟨exec_messageFrameStart h, exec_stopBitMissing h, fun _ => exec_bodyLengthExcess h, fun next => exec_messageGap next h⟩

/-! ### A complete frame (R173, R174) -/

theorem soundFrame_iff (f : MessageFrame) :
    soundFrame f = true ↔ f.crc = crc16 (byte2 f.body.length ++ [f.kind, f.tag] ++ f.body) := beq_iff_eq

theorem exec_messageFrameReceived (f : MessageFrame) {s : State} (h : powered s) :
    exec (.messageFrameReceived f) s = .next
      (if soundFrame f then
        State.receive { s with port := s.port.hunting } { kind := f.kind, tag := f.tag, body := f.body }
       else { s with port := { s.port.hunting with crc := upTo16 s.port.crc } }) := by
  rw [exec, execMessageFrameReceived, event_on h]
  rfl

/-- The place a received request enters, by which of the three places are free (R174). -/
theorem receive_eq (s : State) (r : RawRequest) :
    s.receive r =
      if s.port.current = none then (s.takeIntoWork r).transmit
      else if s.port.held = none then { s with port := { s.port with held := some r } }
      else if s.port.waitingBusy = none then
        State.transmit { s with port := { s.port with waitingBusy := some r, busy := upTo16 s.port.busy } }
      else State.transmit { s with port := { s.port with overflow := upTo16 s.port.overflow } } := by
  simp only [State.receive, Port.turnAway, Option.isNone_iff_eq_none]
  by_cases free : s.port.waitingBusy = none
  · simp only [if_pos free]
    rfl
  · simp only [if_neg free]
    rfl

/-- Settles O10: by the CRC, then the places in their order. -/
theorem frameReceivedEntersAPlace : Obligations.FrameReceivedEntersAPlace := by
  intro f s h
  refine (exec_messageFrameReceived f h).trans (congrArg Host.Outcome.next ?_)
  by_cases sound : soundFrame f = true
  · rw [if_pos sound, if_neg (not_not_intro ((soundFrame_iff f).mp sound)), receive_eq]
    rfl
  · rw [if_neg sound, if_pos (mt (soundFrame_iff f).mpr sound)]
    rfl

/-! ### A request in work, its reply frame, and the result codes' numbers (R174, R175, R181) -/

/-- The body of a reply frame is the result's byte and the fields, so its length is one more than the fields'. -/
theorem replyFrame_eq (r : RawRequest) (a : Reply) :
    let content : List Byte :=
      byte2 (1 + a.fields.bytes.length) ++ [r.kind ||| 0x80#8, r.tag, BitVec.ofNat 8 a.code.wireNumber] ++ a.fields.bytes
    replyFrame r a = [0x5B#8] ++ content ++ byte2 (crc16 content).toNat := by
  have content :
      frameContent (r.kind ||| 0x80#8) r.tag (byte1 a.code.wireNumber ++ a.fields.bytes) =
        byte2 (1 + a.fields.bytes.length) ++ [r.kind ||| 0x80#8, r.tag, BitVec.ofNat 8 a.code.wireNumber] ++ a.fields.bytes := by
    rw [frameContent, List.length_append, length_byte1]
    rfl
  rw [replyFrame, frameBytes, content]
  rfl

/-- Settles O11: the taking as it is defined, the frame by its content, and the table of result codes. -/
theorem requestInWorkHasItsReply : Obligations.RequestInWorkHasItsReply :=
  ⟨fun _ _ => rfl, replyFrame_eq, rfl⟩

end Sys2Proof.Proofs
end

section
/-! PROOFS. The wire's requests: what the port refuses (O12), and every well-formed request read back as its own row (O14). -/

namespace Sys2Proof.Proofs

open Sys2Proof Sys2Proof.Machine Sys2Proof.Claims

/-! ### The answer by what the port finds (R174) -/

theorem respond_badKind {r : RawRequest} (s : State) (h : r.read = .badKind) : s.respond r = s.answer .badKind := by
  rw [State.respond, h]

theorem respond_badLength {r : RawRequest} (s : State) (h : r.read = .badLength) : s.respond r = s.answer .badLength := by
  rw [State.respond, h]

theorem respond_owner {r : RawRequest} {work : State → Answer} (s : State) (h : r.read = .owner work) : s.respond r = work s := by
  rw [State.respond, h]

/-! ### What the port finds, by the kind (R174, R181) -/

/-- A kind whose requests have a body of fixed length: every known kind but BLOCK_ZONE and UNBLOCK_ZONE. -/
abbrev fixedLength (k : Nat) : Prop := 1 ≤ k ∧ k ≤ 26 ∧ k ≠ 12 ∧ k ≠ 13

theorem knownKind_iff (k : Nat) : knownKind k = true ↔ 1 ≤ k ∧ k ≤ 26 := by
  rw [knownKind, Bool.and_eq_true, decide_eq_true_eq, decide_eq_true_eq]

theorem read_unknown {r : RawRequest} (h : r.kind.toNat < 1 ∨ 26 < r.kind.toNat) : r.read = .badKind := by
  have unknown : knownKind r.kind.toNat = false := by
    rw [Bool.eq_false_iff, Ne, knownKind_iff]
    omega
  simp [RawRequest.read, unknown]

theorem read_blockZone {r : RawRequest} (h : r.kind.toNat = 12) :
    r.read = (countedList r.body).elim .badLength fun zs => .owner (askBlockZone zs) := by
  cases list : countedList r.body <;> simp [RawRequest.read, knownKind, h, list]

theorem read_unblockZone {r : RawRequest} (h : r.kind.toNat = 13) :
    r.read = (countedListThen r.body).elim .badLength fun x => .owner (askUnblockZone x.1 x.2) := by
  cases list : countedListThen r.body <;> simp [RawRequest.read, knownKind, h, list]

theorem read_fixedLength {r : RawRequest} (h : fixedLength r.kind.toNat) :
    r.read = (readFields (bodyWidths r.kind.toNat) r.body).elim .badLength (ownerOf r.kind.toNat) := by
  obtain ⟨low, high, notBlock, notUnblock⟩ := h
  have known : knownKind r.kind.toNat = true := (knownKind_iff _).mpr ⟨low, high⟩
  cases fields : readFields (bodyWidths r.kind.toNat) r.body <;>
    simp [RawRequest.read, known, notBlock, notUnblock, fields]

/-! ### Bodies of a wrong length (R174) -/

/-- Fields are read from exactly as many bytes as their widths add up to. -/
theorem length_of_readFields : ∀ {ws : List Nat} {bs : List Byte} {ns : List Nat},
    readFields ws bs = some ns → bs.length = ws.sum
  | [], [], _, _ => rfl
  | w :: ws, bs, ns, h => by
    rw [readFields] at h
    split at h
    · cases h
    next enough =>
      obtain ⟨_, rest, _⟩ := Option.map_eq_some_iff.mp h
      have := length_of_readFields rest
      rw [List.length_drop] at this
      rw [List.sum_cons]
      omega

theorem readFields_none {ws : List Nat} {bs : List Byte} (h : bs.length ≠ ws.sum) : readFields ws bs = none :=
  Option.eq_none_iff_forall_ne_some.mpr fun _ read => h (length_of_readFields read)

theorem countedList_none {n : Byte} {bs : List Byte} (h : bs.length ≠ n.toNat) : countedList (n :: bs) = none := if_neg h

/-- The last byte is CHECK, and what stands before it the list. -/
theorem countedListThen_concat (bs : List Byte) (c : Byte) :
    countedListThen (bs ++ [c]) = (countedList bs).map fun ns => (ns, c.toNat) := by
  rw [countedListThen, List.getLast?_concat, List.dropLast_concat]

/-- A body of fewer than two bytes holds no count beside CHECK. -/
theorem countedListThen_short {bs : List Byte} (h : bs.length < 2) : countedListThen bs = none := by
  match bs with
  | [] | [_] => rfl
  | _ :: _ :: _ => simp at h

/-- Settles O12: the kind, the length of a fixed-length body, then the count of each of the two lists and the bodies too short for it. -/
theorem portRefusesBadRequests : Obligations.PortRefusesBadRequests := by
  refine fun s r => ⟨fun unknown => respond_badKind s (read_unknown unknown), ?fixed, ?block, ?unblock, ?short⟩
  case fixed =>
    intro low high notBlock notUnblock wrong
    refine respond_badLength s ?_
    rw [read_fixedLength ⟨low, high, notBlock, notUnblock⟩, readFields_none wrong, Option.elim_none]
  case block =>
    intro n bs kind body wrong
    refine respond_badLength s ?_
    rw [read_blockZone kind, body, countedList_none wrong, Option.elim_none]
  case unblock =>
    intro n bs c kind body wrong
    refine respond_badLength s ?_
    rw [read_unblockZone kind, body, ← List.cons_append, countedListThen_concat, countedList_none wrong]
    rfl
  case short =>
    rintro (⟨kind, short⟩ | ⟨kind, short⟩) <;> refine respond_badLength s ?_
    · rw [read_blockZone kind, List.length_eq_zero_iff.mp (Nat.lt_one_iff.mp short)]
      rfl
    · rw [read_unblockZone kind, countedListThen_short short, Option.elim_none]

/-! ### A request read back as its own row (R175, R181) -/

/-- Each value fits its field; the conjunction in the order in which the check of a command's operands takes the fields. -/
def fieldsFit (ws vs : List Nat) : Bool := (vs.zip ws).foldl (fun fit x => fit && decide (x.1 < 256 ^ x.2)) true

theorem fieldsFit_eq_all (ws vs : List Nat) : fieldsFit ws vs = (vs.zip ws).all fun x => x.1 < 256 ^ x.2 := by
  have fold : ∀ (xs : List (Nat × Nat)) (fit : Bool),
      xs.foldl (fun fit x => fit && decide (x.1 < 256 ^ x.2)) fit = (fit && xs.all fun x => x.1 < 256 ^ x.2) := by
    intro xs
    induction xs with
    | nil => exact fun fit => (Bool.and_true fit).symm
    | cons x xs ih => exact fun fit => (ih _).trans (Bool.and_assoc ..)
  exact (fold _ true).trans (Bool.true_and _)

/-- Every field on the wire takes one byte or two. -/
theorem bodyWidths_one_or_two (k : Nat) : ∀ w ∈ bodyWidths k, w = 1 ∨ w = 2 := by
  unfold bodyWidths
  split <;> decide

/-- The request that carries a command, with any tag, is answered as the command. -/
def carried (i : Instr) : Prop :=
  ∀ (k : Nat) (body : List Byte) (tag : Byte) (s : State), requestBody i = some (k, body) →
    exec i s = request (fun s => s.respond { kind := BitVec.ofNat 8 k, tag := tag, body := body }) s

/-- A command is carried when the port finds its owner's work in the request. -/
theorem carried_of_respond {i : Instr} {k : Nat} {body : List Byte} {work : State → Answer}
    (written : requestBody i = some (k, body)) (run : exec i = request work)
    (answer : ∀ tag s, State.respond s { kind := BitVec.ofNat 8 k, tag := tag, body := body } = work s) : carried i := by
  intro k' body' tag s written'
  obtain ⟨rfl, rfl⟩ := Prod.mk.inj (Option.some.inj (written.symm.trans written'))
  rw [run, funext (answer tag)]

theorem toNat_kind {k : Nat} (known : k ≤ 26) : (BitVec.ofNat 8 k).toNat = k := by
  rw [BitVec.toNat_ofNat]
  exact Nat.mod_eq_of_lt (by omega)

/-- What the port finds in a fixed-length request written by its fields: the fields, or a wrong length where there are not as many
of them as widths. -/
theorem read_fieldBytes {k : Nat} {vs : List Nat} (tag : Byte) (fixed : fixedLength k)
    (fit : ((vs.zip (bodyWidths k)).all fun x => x.1 < 256 ^ x.2) = true) :
    RawRequest.read { kind := BitVec.ofNat 8 k, tag := tag, body := fieldBytes (bodyWidths k) vs } =
      if vs.length = (bodyWidths k).length then ownerOf k vs else .badLength := by
  have kind : (BitVec.ofNat 8 k).toNat = k := toNat_kind fixed.2.1
  rw [read_fixedLength (by rwa [kind]), kind, readFields_fieldBytes _ _ fit (bodyWidths_one_or_two k),
    apply_ite fun fields : Option (List Nat) => fields.elim Reading.badLength (ownerOf k)]
  rfl

/-- A command whose operands are the fields of a fixed-length request. -/
theorem carried_fields {i : Instr} {work : State → Answer} (k : Nat) (vs : List Nat) (wf : i.wellFormed = true)
    (written : requestBody i = some (k, fieldBytes (bodyWidths k) vs)) (run : exec i = request work)
    (owner : ownerOf k vs = .owner work) (checks : i.wellFormed = fieldsFit (bodyWidths k) vs)
    (count : vs.length = (bodyWidths k).length) (fixed : fixedLength k := by decide) : carried i := by
  refine carried_of_respond written run fun tag s => respond_owner s ?_
  have fit := (fieldsFit_eq_all ..).symm.trans (checks.symm.trans wf)
  rw [read_fieldBytes tag fixed fit, if_pos count, owner]

/-- STAGE_SETTINGS: a list of another length than a group's is a body of the wrong length, as its owner answers it (R156). -/
theorem carried_stageSettings {vs : List Nat} (wf : (Instr.stageSettings vs).wellFormed = true) : carried (.stageSettings vs) := by
  refine carried_of_respond (work := askStageSettings vs) rfl rfl fun tag s => ?_
  simp only [Instr.wellFormed, settingsFit, Bool.and_eq_true] at wf
  obtain ⟨⟨fit, _⟩, _⟩ := wf
  have found := read_fieldBytes (k := 20) tag (by decide) fit
  by_cases group : vs.length = 19
  · exact respond_owner s (found.trans (if_pos group))
  · exact (respond_badLength s (found.trans (if_neg group))).trans (askStageSettings_length s group).symm

/-- BLOCK_ZONE: the count and the names are read back (R24). -/
theorem carried_blockZone {zs : List Nat} (wf : (Instr.blockZone zs).wellFormed = true) : carried (.blockZone zs) := by
  refine carried_of_respond (work := askBlockZone zs) rfl rfl fun tag s => respond_owner s ?_
  simp only [Instr.wellFormed, Bool.and_eq_true, decide_eq_true_eq] at wf
  obtain ⟨count, names⟩ := wf
  rw [read_blockZone rfl, countedList_listOf zs count names, Option.elim_some]

/-- UNBLOCK_ZONE: the count, the names and CHECK are read back (R25). -/
theorem carried_unblockZone {zs : List Nat} {c : Nat} (wf : (Instr.unblockZone zs c).wellFormed = true) :
    carried (.unblockZone zs c) := by
  refine carried_of_respond (work := askUnblockZone zs c) rfl rfl fun tag s => respond_owner s ?_
  simp only [Instr.wellFormed, fitsByte, Bool.and_eq_true, decide_eq_true_eq] at wf
  obtain ⟨⟨count, names⟩, check⟩ := wf
  have body : countedListThen (listOf byte1 zs ++ byte1 c) = some (zs, c) := by
    rw [byte1, countedListThen_concat, countedList_listOf zs count names, Option.map_some, BitVec.toNat_ofNat, Nat.mod_eq_of_lt check]
  rw [read_unblockZone rfl, body, Option.elim_some]

theorem carried_of_wellFormed {i : Instr} (wf : i.wellFormed = true) (h : i ≠ .restart) : carried i := by
  cases i with
  | identify c => exact carried_fields 1 [c] wf rfl rfl rfl rfl rfl
  | fetchNotices r => exact carried_fields 2 [r] wf rfl rfl rfl rfl rfl
  | setStation f d m x => exact carried_fields 3 [f, d, m, x] wf rfl rfl rfl rfl rfl
  | startProtection e => exact carried_fields 4 [e] wf rfl rfl rfl rfl rfl
  | stopProtection => exact carried_fields 5 [] wf rfl rfl rfl rfl rfl
  | restart => exact absurd rfl h
  | queryOperation t => exact carried_fields 7 [t] wf rfl rfl rfl rfl rfl
  | configureBay b k x u c p a => exact carried_fields 8 [b, k, x, u, c, p, a] wf rfl rfl rfl rfl rfl
  | setService b t => exact carried_fields 9 [b, t] wf rfl rfl rfl rfl rfl
  | override b e v => exact carried_fields 10 [b, e, v] wf rfl rfl rfl rfl rfl
  | readBay b => exact carried_fields 11 [b] wf rfl rfl rfl rfl rfl
  | blockZone zs => exact carried_blockZone wf
  | unblockZone zs c => exact carried_unblockZone wf
  | readZone => exact carried_fields 14 [] wf rfl rfl rfl rfl rfl
  | readClock => exact carried_fields 15 [] wf rfl rfl rfl rfl rfl
  | openLink b e => exact carried_fields 16 [b, e] wf rfl rfl rfl rfl rfl
  | closeLink b d w => exact carried_fields 17 [b, d, w] wf rfl rfl rfl rfl rfl
  | readLink b c => exact carried_fields 18 [b, c] wf rfl rfl rfl rfl rfl
  | reallocate b a => exact carried_fields 19 [b, a] wf rfl rfl rfl rfl rfl
  | stageSettings vs => exact carried_stageSettings wf
  | switchSettings => exact carried_fields 21 [0] wf rfl rfl rfl rfl rfl
  | switchSettingsCancel => exact carried_fields 21 [1] wf rfl rfl rfl rfl rfl
  | readSettings x => exact carried_fields 22 [x] wf rfl rfl rfl rfl rfl
  | sendOrder b k a => exact carried_fields 23 [b, k, a] wf rfl rfl rfl rfl rfl
  | resetTrip t => exact carried_fields 24 [t] wf rfl rfl rfl rfl rfl
  | readRecord x i => exact carried_fields 25 [x, i] wf rfl rfl rfl rfl rfl
  | releaseRecord i => exact carried_fields 26 [i] wf rfl rfl rfl rfl rfl
  | warmRestart | powerOnReset | resetnAsserted
  | messageFrameReceived | messageGap | replySent | messageFrameStart | stopBitMissing | bodyLengthExcess
  | sampleBoundary | mark | missingCountRise | markTimeout
  | frameArrival | wakeBringUp | linkActive | recoveryActive | bringUpFailed | bringUpTimeout | lockTimeout | linkLost
  | release | replicaOpen | isolatorStuck | breakerStuck | dataLost | dataRestored
  | spanEnd | evolvingFault | returnToQuiet | ctSupervision
  | bfCleared | bfExpiry | drainComplete | settingsSwitched | tripUnconfirmed | orderDone | orderTimeout
  | startSuccess | startTimeout => exact fun _ _ _ _ written => nomatch written

/-- Settles O14, by the table of requests: the fixed-length ones by their fields, STAGE_SETTINGS and the two lists by themselves. -/
theorem wireCarriesEveryRequest : Obligations.WireCarriesEveryRequest :=
  fun _ k body tag s wf notRestart => carried_of_wellFormed wf notRestart k body tag s

end Sys2Proof.Proofs
end

section
/-! PROOFS. Every command's completion (O3), and what a step does with the queue (O1, O2). -/

namespace Sys2Proof.Proofs

open Sys2Proof Sys2Proof.Machine

/-! ### Every command completes (log entry 22) -/

theorem request_completes (owner : State → Answer) (s : State) : ∃ t, request owner s = .next t := by
  cases low : s.pins.inReset with
  | false => exact ⟨_, request_on low⟩
  | true => exact ⟨s, request_off low⟩

theorem event_completes (work : State → State) (s : State) : ∃ t, event work s = .next t := by
  cases low : s.pins.inReset with
  | false => exact ⟨work s, event_on low⟩
  | true => exact ⟨s, event_off low⟩

/-- Settles O3, by the table of commands: the two rows of RESETn answer directly, each host request through `request` and every
other row through `event`, whose two branches both answer next. -/
theorem everyCommandCompletes : Obligations.EveryCommandCompletes := by
  intro c s
  cases c with simp only [exec]
  | powerOnReset a b => exact ⟨_, exec_powerOnReset a b s⟩
  | resetnAsserted => exact ⟨s.holdReset, rfl⟩
  | identify | fetchNotices | setStation | startProtection | stopProtection | restart | queryOperation
  | configureBay | setService | override | readBay
  | blockZone | unblockZone | readZone | readClock
  | openLink | closeLink | readLink | reallocate
  | stageSettings | switchSettings | switchSettingsCancel | readSettings
  | sendOrder | resetTrip | readRecord | releaseRecord => exact request_completes _ s
  | warmRestart
  | messageFrameReceived | messageGap | replySent | messageFrameStart | stopBitMissing | bodyLengthExcess
  | sampleBoundary | mark | missingCountRise | markTimeout
  | frameArrival | wakeBringUp | linkActive | recoveryActive | bringUpFailed | bringUpTimeout | lockTimeout | linkLost
  | release | replicaOpen | isolatorStuck | breakerStuck | dataLost | dataRestored
  | spanEnd | evolvingFault | returnToQuiet | ctSupervision
  | bfCleared | bfExpiry | drainComplete | settingsSwitched | tripUnconfirmed | orderDone | orderTimeout
  | startSuccess | startTimeout => exact event_completes _ s

/-! ### The queue (log entry 10) -/

/-- Settles O1: the branch of `step` for a queue with a command at its front. -/
theorem stepRunsFrontCommand : Obligations.StepRunsFrontCommand := by
  intro c rest s front
  rw [step, front]

/-- Settles O2: the branch of `step` for an empty queue. -/
theorem emptyQueueIdles : Obligations.EmptyQueueIdles := by
  intro s empty
  rw [step, empty]

end Sys2Proof.Proofs
end
